-- ==== Sys2Proof/Word.lean ====
section
/-! DEFINITION. The word types of the core (spec/00_scope.md R6 to R8) and the four-word digest value
that the compression function takes and gives (spec/10_state.md R20). Every quantity is unsigned (R7). -/

namespace Sys2Proof

/-- One message byte. -/
abbrev Byte := BitVec 8

/-- A 32-bit register or message word (R6). `x + y` on it is the spec's `x +32 y` (R8). -/
abbrev Word := BitVec 32

/-- A 64-bit quantity: the byte counter, the total length, the bit length (R6). -/
abbrev DWord := BitVec 64

/-- The digest state: exactly four 32-bit words `A`, `B`, `C`, `D` (R20). The same four words are the
working registers `a`, `b`, `c`, `d` inside `process_block` (R33). -/
structure Digest where
  a : Word
  b : Word
  c : Word
  d : Word
  deriving DecidableEq, Repr

/-- Word by word addition modulo 2^32: the chaining of R124. -/
def Digest.add (x y : Digest) : Digest :=
  ⟨x.a + y.a, x.b + y.b, x.c + y.c, x.d + y.d⟩

end Sys2Proof
end

