-- ==== Sys2Proof/Syntax.lean ====
section
/-! DEFINITION. The command set of the core (spec/30_encoding.md R92), the host's statements (R95), and the
names of the two agents and of reset, one of which makes each step (spec/00_scope.md R4). -/

namespace Sys2Proof

/-- The seven commands, one for each row of the opcode table (R92). A command has no operand fields: its
operands are registers (R91). -/
inductive Instr where
  | nop
  | init
  | chunk
  | absorb
  | final
  | oneshot
  | block
  deriving DecidableEq, Repr

/-- A statement of the host's assembly (R95). `n` is the access width in bytes: the hardware has only 4 (R62).
Names of host variables and of labels are numbers. Log 10. -/
inductive Stmt where
  /-- `WR reg, v`: `MemWrite(off, n, v)`. -/
  | wr (off n : Nat) (v : Word)
  /-- `RD reg -> name`: `name <- MemRead(off, n)`; the name may be omitted. -/
  | rd (off n : Nat) (dst : Option Nat)
  /-- `label:` a position in the host program. -/
  | label (l : Nat)
  /-- `BNZ name, mask, label`: if `(name AND mask) != 0`, go to `label`. -/
  | bnz (name : Nat) (mask : Word) (l : Nat)
  deriving DecidableEq, Repr

/-- Who moves in a step: the host, the core (R4), or the reset input (spec/70_reset_and_hazards.md R270). -/
inductive Turn where
  | host
  | core
  | reset
  deriving DecidableEq, Repr

end Sys2Proof
end

