-- ==== Sys2Proof/WellFormed.lean ====
section
/-! DEFINITION. Well-formed syntax. A command carries no field, so every `Instr` is well formed
(spec/30_encoding.md R91); a host statement must be an access the port can express (spec/20_memory.md R62),
and a branch must name a label the program has (spec/30_encoding.md R95). -/

namespace Sys2Proof

/-- Every command is well formed: there is no operand field to be out of range (R91). -/
def Instr.wf : Instr → Bool
  | .nop => true
  | .init => true
  | .chunk => true
  | .absorb => true
  | .final => true
  | .oneshot => true
  | .block => true

/-- An access the port has: 32 bits, word aligned, inside the 64 KiB register space (R60, R62). -/
def accessWf (off n : Nat) : Bool := n == 4 && off % 4 == 0 && decide (off < 0x10000)

/-- A well-formed statement of the program `prog`. -/
def Stmt.wf (prog : List Stmt) : Stmt → Bool
  | .wr off n _ => accessWf off n
  | .rd off n _ => accessWf off n
  | .label _ => true
  | .bnz _ _ l => prog.contains (.label l)

/-- A well-formed host program: every statement of it is. -/
def programWf (prog : List Stmt) : Bool := prog.all (Stmt.wf prog)

end Sys2Proof
end

