-- ==== Sys2Proof/Decode.lean ====
section
/-! DEFINITION. The command word (spec/30_encoding.md R90, R92, R93): its decoder, total on every 32-bit
word, and its encoder. A command word reaches the core as one 32-bit value written to CMD, never as bytes in a
memory (R90, spec/20_memory.md R62), so the decoder takes a word. -/

namespace Sys2Proof

/-- Why a word is no command. Either reason raises ILLEGAL_CMD (R93). -/
inductive DecodeError where
  /-- `v[31:4] != 0`. -/
  | reservedBits
  /-- `v[3:0]` is 7 to 15. -/
  | reservedOpcode
  deriving DecidableEq, Repr

/-- `v[3:0]`, the field OP (R90). -/
def opField (v : Word) : BitVec 4 := v.extractLsb' 0 4

/-- `v[31:4]`, the field RSVD (R90). -/
def rsvdField (v : Word) : BitVec 28 := v.extractLsb' 4 28

/-- The decoder: opcode OP is selected exactly when `v[31:4] = 0` and `v[3:0] = OP`, for OP from 0 to 6 (R92);
every other word is illegal (R93). -/
def decode (v : Word) : Except DecodeError Instr :=
  if rsvdField v ≠ 0#28 then .error .reservedBits
  else
    match (opField v).toNat with
    | 0 => .ok .nop
    | 1 => .ok .init
    | 2 => .ok .chunk
    | 3 => .ok .absorb
    | 4 => .ok .final
    | 5 => .ok .oneshot
    | 6 => .ok .block
    | _ => .error .reservedOpcode

/-- The opcode of a command (R92). -/
def opcode : Instr → BitVec 4
  | .nop => 0#4
  | .init => 1#4
  | .chunk => 2#4
  | .absorb => 3#4
  | .final => 4#4
  | .oneshot => 5#4
  | .block => 6#4

/-- The command word of a command: RSVD zero, OP the opcode (R90, R92). -/
def encode (i : Instr) : Word := 0#28 ++ opcode i

/-- The command that the decoder reads from a word given as a number, bit 0 its least significant bit. Bits from
`nbits` up are 0. A number of more than 32 bits is no command word (R90). Log 17. -/
def decodeTableWord (nbits w : Nat) : Option Instr :=
  if w % 2 ^ nbits < 2 ^ 32 then
    match decode (BitVec.ofNat 32 (w % 2 ^ nbits)) with
    | .ok i => some i
    | .error _ => none
  else none

end Sys2Proof
end

