-- ==== Sys2Proof/Machine/Tables.lean ====
section
/-! DEFINITION. The constants of the core, which no write changes (spec/10_state.md R37): the initial
value of the digest state (R21) and the step tables of spec/40_compression.md R121, R122 and R123. -/

namespace Sys2Proof.Machine

/-- The IV (R21). -/
def iv : Digest := ⟨0x67452301#32, 0xefcdab89#32, 0x98badcfe#32, 0x10325476#32⟩

/-- `T[0..15]` (R121). -/
def tRound1 : List Word :=
  [0xd76aa478#32, 0xe8c7b756#32, 0x242070db#32, 0xc1bdceee#32,
   0xf57c0faf#32, 0x4787c62a#32, 0xa8304613#32, 0xfd469501#32,
   0x698098d8#32, 0x8b44f7af#32, 0xffff5bb1#32, 0x895cd7be#32,
   0x6b901122#32, 0xfd987193#32, 0xa679438e#32, 0x49b40821#32]

/-- `T[16..31]` (R121). -/
def tRound2 : List Word :=
  [0xf61e2562#32, 0xc040b340#32, 0x265e5a51#32, 0xe9b6c7aa#32,
   0xd62f105d#32, 0x02441453#32, 0xd8a1e681#32, 0xe7d3fbc8#32,
   0x21e1cde6#32, 0xc33707d6#32, 0xf4d50d87#32, 0x455a14ed#32,
   0xa9e3e905#32, 0xfcefa3f8#32, 0x676f02d9#32, 0x8d2a4c8a#32]

/-- `T[32..47]` (R121). -/
def tRound3 : List Word :=
  [0xfffa3942#32, 0x8771f681#32, 0x6d9d6122#32, 0xfde5380c#32,
   0xa4beea44#32, 0x4bdecfa9#32, 0xf6bb4b60#32, 0xbebfbc70#32,
   0x289b7ec6#32, 0xeaa127fa#32, 0xd4ef3085#32, 0x04881d05#32,
   0xd9d4d039#32, 0xe6db99e5#32, 0x1fa27cf8#32, 0xc4ac5665#32]

/-- `T[48..63]` (R121). -/
def tRound4 : List Word :=
  [0xf4292244#32, 0x432aff97#32, 0xab9423a7#32, 0xfc93a039#32,
   0x655b59c3#32, 0x8f0ccc92#32, 0xffeff47d#32, 0x85845dd1#32,
   0x6fa87e4f#32, 0xfe2ce6e0#32, 0xa3014314#32, 0x4e0811a1#32,
   0xf7537e82#32, 0xbd3af235#32, 0x2ad7d2bb#32, 0xeb86d391#32]

/-- The additive constant `T_i` of step `i` (R121). Only `i < 64` is used. -/
def tConst (i : Nat) : Word :=
  match i / 16 with
  | 0 => tRound1.getD (i % 16) 0#32
  | 1 => tRound2.getD (i % 16) 0#32
  | 2 => tRound3.getD (i % 16) 0#32
  | _ => tRound4.getD (i % 16) 0#32

/-- The four shift amounts of each round (R122). -/
def shiftRow : Nat → List Nat
  | 0 => [7, 12, 17, 22]
  | 1 => [5, 9, 14, 20]
  | 2 => [4, 11, 16, 23]
  | _ => [6, 10, 15, 21]

/-- The shift amount `s_i` of step `i`: entry `i mod 4` of its round (R122). -/
def shiftAmt (i : Nat) : Nat := (shiftRow (i / 16)).getD (i % 4) 1

/-- The message-word index `k_i` of step `i` (R123). -/
def wordIdx (i : Nat) : Nat :=
  match i / 16 with
  | 0 => i % 16
  | 1 => (5 * i + 1) % 16
  | 2 => (3 * i + 5) % 16
  | _ => (7 * i) % 16

end Sys2Proof.Machine
end

