-- ==== Sys2Proof/Machine/Compression.lean ====
section
/-! DEFINITION. The compression round function (spec/40_compression.md): the word arithmetic (R110, R111),
the four nonlinear functions (R112 to R116), the step (R118, R119), and the block transform with its
chaining (R124, R126). Every operation is pure and total and raises nothing. -/

namespace Sys2Proof.Machine

/-- `x +32 y` (R110): no carry is recorded. -/
def add32 (x y : Word) : Word := x + y

/-- Circular left rotation (R111), used for counts from 1 to 31. -/
def rotl32 (x : Word) (n : Nat) : Word := (x <<< n) ||| (x >>> (32 - n))

/-- Round 1 function (R112). -/
def fF (b c d : Word) : Word := (b &&& c) ||| (~~~b &&& d)

/-- Round 2 function (R113). -/
def fG (b c d : Word) : Word := (b &&& d) ||| (c &&& ~~~d)

/-- Round 3 function (R114). -/
def fH (b c d : Word) : Word := b ^^^ c ^^^ d

/-- Round 4 function (R115). -/
def fI (b c d : Word) : Word := c ^^^ (b ||| ~~~d)

/-- The function of step `i`: the one of round `i div 16 + 1` (R116). -/
def fnOf (i : Nat) : Word → Word → Word → Word :=
  match i / 16 with
  | 0 => fF
  | 1 => fG
  | 2 => fH
  | _ => fI

/-- The common step shape (R118). -/
def mix (fv a b x : Word) (shift : Nat) (const : Word) : Word :=
  add32 (rotl32 (add32 (add32 (add32 a fv) x) const) shift) b

/-- The new value of the target `w` in step `i`, from the operands in the roles `p`, `q`, `r` (R119). -/
def stepValue (X : List Word) (i : Nat) (w p q r : Word) : Word :=
  mix (fnOf i p q r) w p (X.getD (wordIdx i) 0#32) (shiftAmt i) (tConst i)

/-- Step `i`: the target and the roles go round-robin a, d, c, b (R119). Only the target changes. -/
def md5Step (X : List Word) (s : Digest) (i : Nat) : Digest :=
  match i % 4 with
  | 0 => { s with a := stepValue X i s.a s.b s.c s.d }
  | 1 => { s with d := stepValue X i s.d s.a s.b s.c }
  | 2 => { s with c := stepValue X i s.c s.d s.a s.b }
  | _ => { s with b := stepValue X i s.b s.c s.d s.a }

/-- The first `n` steps, in increasing order of the step index (R34, R124). -/
def md5Steps (X : List Word) (s : Digest) : Nat → Digest
  | 0 => s
  | n + 1 => md5Step X (md5Steps X s n) n

/-- `process_block`: 64 steps, then the chaining addition (R124). -/
def processBlock (s : Digest) (X : List Word) : Digest := s.add (md5Steps X s 64)

/-- The step in the rotating form of R120: the four names rotate and the roles stay. -/
def md5StepRot (X : List Word) (s : Digest) (i : Nat) : Digest :=
  ⟨s.d, stepValue X i s.a s.b s.c s.d, s.b, s.c⟩

/-- The first `n` steps in the rotating form (R120). -/
def md5StepsRot (X : List Word) (s : Digest) : Nat → Digest
  | 0 => s
  | n + 1 => md5StepRot X (md5StepsRot X s n) n

/-- The first `n` blocks of 16 words (R160). -/
def blocksOf : Nat → List Word → List (List Word)
  | 0, _ => []
  | n + 1, ws => ws.take 16 :: blocksOf n (ws.drop 16)

/-- Every whole block of a word sequence, compressed in increasing order, each from the state that the
one before it left (R126, R160). -/
def compress (s : Digest) (ws : List Word) : Digest :=
  (blocksOf (ws.length / 16) ws).foldl processBlock s

end Sys2Proof.Machine
end

