-- ==== Sys2Proof/Config.lean ====
section
/-! DEFINITION. What one implementation fixes (spec/00_scope.md R5) and the free value behind the reads
the spec leaves unspecified (spec/10_state.md R35, R38). -/

namespace Sys2Proof

/-- The legal values of `CHUNK_BYTES`: the positive multiples of 64 from 64 to 32768 (R5, decision D2). -/
def Config.legalChunkBytes (n : Nat) : Bool := n % 64 == 0 && decide (64 ≤ n) && decide (n ≤ 32768)

/-- Building a core with `CHUNK_BYTES = n`. The build parameter is the number of 64-byte blocks less one, so
an illegal size cannot be built: any other value is refused at construction (R278, U13). -/
def Config.buildChunk (n : Nat) : Option (Fin 512) :=
  if n % 64 = 0 ∧ 64 ≤ n ∧ n ≤ 32768 then some (Fin.ofNat 512 (n / 64 - 1)) else none

/-- The default size: 64 bytes, one block (R5, decision D2). -/
def Config.defaultChunk : Fin 512 := 0

/-- FREE VALUE: what the n-th unspecified host read returns (R38: "a fresh draw for each read"; R35: "A host
read of an unwritten word returns an unspecified value"). It has no body: nothing can be proved of it. Log 5. -/
opaque Config.freeWord : Nat → Word

end Sys2Proof
end

