-- ==== Sys2Proof/Machine/State.lean ====
section
/-! DEFINITION. The state of the machine as plain data: every element of spec/10_state.md R39, the host side
of the two-agent model (spec/00_scope.md R4, spec/30_encoding.md R95), and the state after power-on reset
(spec/70_reset_and_hazards.md R270). -/

namespace Sys2Proof.Machine

/-- The sequencer state (R23). -/
inductive Fsm where
  | init
  | streaming
  | finalizing
  | done
  deriving DecidableEq, Repr

/-- The error codes (spec/60_exceptions.md R240). Codes 6 and 7 are never produced and have no constructor (U9). -/
inductive ErrCode where
  | none
  | invalidChunkLength
  | badState
  | badLen
  | illegalCmd
  | busyWrite
  deriving DecidableEq, Repr

/-- Why a step can stop with a fault. Both are faults of the model, not of the hardware. -/
inductive Fault where
  /-- Raised by the completion of CHUNK, ABSORB, FINAL, ONESHOT or BLOCK that consumes a BUF word not written
  since reset (spec/60_exceptions.md R251, spec/93 U3: treatment fault). Safe: the hardware goes on with an
  unspecified digest. Log 8. -/
  | unwrittenBuffer
  /-- Raised by the no-padding packer on a length that is not a multiple of 64 (spec/41_packer.md R156:
  `fail InvalidChunkLength`). Acceptance rules it out (R244), so no run from reset reaches it. Safe. Log 12. -/
  | invalidChunkLength
  deriving DecidableEq, Repr

/-- Why a step can be refused. -/
inductive Refusal where
  /-- Raised by an arm of `exec` that has no meaning yet. No arm is left so. Safe. -/
  | notModelled (mnemonic : String)
  /-- Raised by a host access that is not 32 bits wide, not word aligned, or outside the register space: "A model
  refuses any other form as 'not in the hardware'" (spec/20_memory.md R62, U4). Safe. Log 9. -/
  | notInHardware
  /-- Raised by a host BNZ on a variable that no RD has set: no program of spec/30_encoding.md R95. Safe. Log 10. -/
  | unboundName
  /-- Raised by a taken host BNZ to a label the program does not have. Safe. Log 10. -/
  | unknownLabel
  deriving DecidableEq, Repr

/-- The contents of BUF: (byte offset in the register space, byte), offsets strictly rising. A byte that is not
listed has no value (power-on contents are unspecified, R35). Log 7. -/
abbrev Memory := List Host.Cell

/-- Values of host variables, names strictly rising. -/
abbrev Vars := List (Nat × Word)

/-- The machine's state. -/
structure State where
  /-- The build parameter: `CHUNK_BYTES = 64 * (chunk + 1)` (R5); what `CHUNK_SIZE` reads (R32). No step changes it. -/
  chunk : Fin 512
  /-- `A`, `B`, `C`, `D` (R20). -/
  digest : Digest
  /-- `COUNT`, the cumulative byte counter (R22). -/
  count : DWord
  /-- The sequencer state (R23). -/
  fsm : Fsm
  /-- `PENDING` (R25) and `BUSY` (R24) in one: `none` is BUSY = 0, `some i` is BUSY = 1 with PENDING = i. Log 6. -/
  pending : Option Instr
  /-- `STATUS.ERR` (R26). -/
  err : Bool
  /-- `STATUS.ERR_CODE` (R26). -/
  errCode : ErrCode
  /-- `STATUS.OVF` (R27). -/
  ovf : Bool
  /-- `LEN` (R29). -/
  len : Word
  /-- `CFG.USE_TOTAL` (R30). -/
  useTotal : Bool
  /-- `TOTAL` (R31). -/
  total : DWord
  /-- The contents of `BUF` (R35), at offset `0x8000 + i` byte `i` of the chunk (R65). -/
  mem : Memory
  /-- The indexes of the `BUF` words whose written flag is set (R35), strictly rising. -/
  written : List Nat
  /-- MODEL: how many unspecified values host reads have drawn (R38). Log 5. -/
  draws : Nat
  /-- HOST: its program (R95). Log 10. -/
  prog : List Stmt
  /-- HOST: the index of its next statement. -/
  hpc : Nat
  /-- HOST: its variables (R95). -/
  vars : Vars
  /-- Who moves in the coming steps; when it is empty a busy core completes and otherwise the host moves. Log 2. -/
  turns : List Turn
  deriving DecidableEq, Repr

/-- The state after power-on reset of a core built with `CHUNK_BYTES = 64 * (c + 1)` (R39, R270): every element at
its reset value, no BUF word written, no host program. Log 18. -/
def State.powerOn (c : Fin 512) : State where
  chunk := c
  digest := iv
  count := 0#64
  fsm := .init
  pending := none
  err := false
  errCode := .none
  ovf := false
  len := 0#32
  useTotal := false
  total := 0#64
  mem := []
  written := []
  draws := 0
  prog := []
  hpc := 0
  vars := []
  turns := []

/-- The machine right after reset, with the default `CHUNK_BYTES = 64` (R5, R39). Log 4. -/
def State.reset : State := .powerOn Config.defaultChunk

end Sys2Proof.Machine
end

