-- ==== Sys2Proof/Machine/Ops.lean ====
section
/-! DEFINITION. The named operations over the state: byte order (spec/20_memory.md R65, R66), the chunk buffer and
its written flags (spec/10_state.md R35), recording an error and recovering from it (spec/60_exceptions.md R241,
R254), reset (spec/70_reset_and_hazards.md R270), and the bookkeeping of the host side. -/

namespace Sys2Proof.Machine

/-! ### Byte order -/

/-- Byte lane `j` of a word: bits `8j+7 : 8j` (R65, R66). -/
def byteLane (w : Word) (j : Nat) : Byte := w.extractLsb' (8 * j) 8

/-- The four bytes of a word, least significant first (R65). -/
def bytesOfWord (w : Word) : List Byte := [byteLane w 0, byteLane w 1, byteLane w 2, byteLane w 3]

/-- `P[0] OR P[1] << 8 OR P[2] << 16 OR P[3] << 24` (spec/41_packer.md R150). -/
def wordOfBytes (b0 b1 b2 b3 : Byte) : Word := b3 ++ b2 ++ b1 ++ b0

/-- The 16 digest bytes: byte `4r + j` is byte `j` of the register `r` of A, B, C, D (R66). -/
def digestBytes (x : Digest) : List Byte :=
  bytesOfWord x.a ++ bytesOfWord x.b ++ bytesOfWord x.c ++ bytesOfWord x.d

/-! ### Sorted lists of keys and values -/

/-- The value at a key. -/
def lookupKey {α : Type} (k : Nat) : List (Nat × α) → Option α
  | [] => none
  | (j, u) :: r => if j = k then some u else lookupKey k r

/-- The list with the value at a key set, keys rising. -/
def insertKey {α : Type} (k : Nat) (v : α) : List (Nat × α) → List (Nat × α)
  | [] => [(k, v)]
  | (j, u) :: r =>
    if k < j then (k, v) :: (j, u) :: r
    else if k = j then (k, v) :: r
    else (j, u) :: insertKey k v r

/-- The keys rise strictly, and each is at least `lo`. -/
def risingFrom {α : Type} (lo : Nat) : List (Nat × α) → Bool
  | [] => true
  | (j, _) :: r => decide (lo ≤ j) && risingFrom (j + 1) r

/-- A set of indexes, rising: the set with `k` in it. -/
def insertIdx (k : Nat) : List Nat → List Nat
  | [] => [k]
  | j :: r =>
    if k < j then k :: j :: r
    else if k = j then j :: r
    else j :: insertIdx k r

/-- The indexes rise strictly, and each is at least `lo`. -/
def risingIdxFrom (lo : Nat) : List Nat → Bool
  | [] => true
  | j :: r => decide (lo ≤ j) && risingIdxFrom (j + 1) r

/-! ### Memory -/

/-- The canonical form of a memory: addresses strictly rising. An unlisted address has no value, so no entry can
equal what it reads as. Log 7. -/
def Memory.wf (m : Memory) : Bool := risingFrom 0 m

/-- The four bytes at an address as a word, least significant first (R65); no value if a byte has none. -/
def Memory.loadWord (m : Memory) (addr : Nat) : Option Word :=
  match lookupKey addr m, lookupKey (addr + 1) m, lookupKey (addr + 2) m, lookupKey (addr + 3) m with
  | some b0, some b1, some b2, some b3 => some (wordOfBytes b0 b1 b2 b3)
  | _, _, _, _ => none

/-- A word stored at an address, least significant byte first (R65). -/
def Memory.storeWord (m : Memory) (addr : Nat) (v : Word) : Memory :=
  insertKey (addr + 3) (byteLane v 3) (insertKey (addr + 2) (byteLane v 2)
    (insertKey (addr + 1) (byteLane v 1) (insertKey addr (byteLane v 0) m)))

/-! ### Registers -/

/-- `CHUNK_BYTES` (spec/00_scope.md R5). -/
def State.chunkBytes (s : State) : Nat := 64 * (s.chunk.val + 1)

/-- `STATUS.BUSY` (R24): 1 from the acceptance of a command other than NOP until its completion. Log 6. -/
def State.busy (s : State) : Bool := s.pending.isSome

/-- The byte offset of `BUF[k]` in the register space (spec/20_memory.md R61). -/
def bufAddr (k : Nat) : Nat := 0x8000 + 4 * k

/-- The written flag of `BUF[k]` (R35). -/
def State.isWritten (s : State) (k : Nat) : Bool := s.written.contains k

/-- `BUF[k]`, if it has been written since reset (R35). -/
def State.bufWord (s : State) (k : Nat) : Option Word :=
  if s.isWritten k then s.mem.loadWord (bufAddr k) else none

/-- `BUF[k] <- v` and mark that word written (R64). -/
def State.storeBuf (s : State) (k : Nat) (v : Word) : State :=
  { s with mem := s.mem.storeWord (bufAddr k) v, written := insertIdx k s.written }

/-- `(A, B, C, D) <- x` (R20). -/
def State.setDigest (s : State) (x : Digest) : State := { s with digest := x }

/-- `fsm <- f` (R23). -/
def State.setFsm (s : State) (f : Fsm) : State := { s with fsm := f }

/-- `(A, B, C, D) <- IV; COUNT <- 0` (spec/42_sequencer.md R186, R190). -/
def State.loadIv (s : State) : State := { s with digest := iv, count := 0#64 }

/-- `LEN <- v` (R29). -/
def State.setLen (s : State) (v : Word) : State := { s with len := v }

/-- `CFG.USE_TOTAL <- v[0]`; `v[31:1]` is ignored (R30). -/
def State.setCfg (s : State) (v : Word) : State := { s with useTotal := v.getLsbD 0 }

/-- `TOTAL[31:0] <- v` (R31). -/
def State.setTotalLo (s : State) (v : Word) : State := { s with total := s.total.extractLsb' 32 32 ++ v }

/-- `TOTAL[63:32] <- v` (R31). -/
def State.setTotalHi (s : State) (v : Word) : State := { s with total := v ++ s.total.extractLsb' 0 32 }

/-! ### Errors and recovery: the core has no trap entry (R254) -/

/-- `raise Error(code)`: the first error is kept, nothing else changes (R241). -/
def State.raiseError (s : State) (code : ErrCode) : State :=
  if s.err = false then { s with err := true, errCode := code } else s

/-- `ERR <- 0; ERR_CODE <- 0; OVF <- 0`: recovery, the counterpart of a trap return, at the acceptance of INIT or
ONESHOT (spec/42_sequencer.md R181, R254). -/
def State.clearErrors (s : State) : State := { s with err := false, errCode := .none, ovf := false }

/-! ### Issue and completion -/

/-- `PENDING <- op; BUSY <- 1` (R181). -/
def State.beginCommand (s : State) (i : Instr) : State := { s with pending := some i }

/-- `BUSY <- 0` (R182); the pending command is no longer held (R25). -/
def State.endCommand (s : State) : State := { s with pending := none }

/-- `next` passes its state on; a fault or a refusal ends the sequence. -/
def andThen (o : Host.Outcome State Fault Refusal) (f : State → Host.Outcome State Fault Refusal) :
    Host.Outcome State Fault Refusal :=
  match o with
  | .next t => f t
  | .fault r => .fault r
  | .refused r => .refused r

/-! ### Reset -/

/-- Reset of the core (R270, R271): every element to its reset value, the pending command discarded, every BUF word
marked unwritten, BUF's contents not changed. The host's side is not the core's and stays. Log 14. -/
def State.resetCore (s : State) : State :=
  { s with digest := iv, count := 0#64, fsm := .init, pending := none, err := false, errCode := .none, ovf := false,
           len := 0#32, useTotal := false, total := 0#64, written := [] }

/-! ### The host side and the free values -/

/-- The free value for the next unspecified read (R38). Log 5. -/
def State.freeWord (s : State) : Word := Config.freeWord s.draws

/-- One free value has been drawn. -/
def State.drew (s : State) : State := { s with draws := s.draws + 1 }

/-- The host goes on to its next statement. -/
def State.hostNext (s : State) : State := { s with hpc := s.hpc + 1 }

/-- The host goes to a statement. -/
def State.hostGoto (s : State) (k : Nat) : State := { s with hpc := k }

/-- The host variable `x` gets a value. -/
def State.bindVar (s : State) (x : Nat) (v : Word) : State := { s with vars := insertKey x v s.vars }

/-- What `RD` does with the value it has read: it is bound to the name, or dropped where `-> name` is omitted
(spec/30_encoding.md R95). -/
def State.bindDst (s : State) (dst : Option Nat) (v : Word) : State :=
  match dst with
  | some x => s.bindVar x v
  | none => s

/-- The coming turn is used up. -/
def State.popTurn (s : State) : State := { s with turns := s.turns.tail }

end Sys2Proof.Machine
end

