-- ==== Sys2Proof/Machine/Flags.lean ====
section
/-! DEFINITION. The status flags: the codes of ERR_CODE (spec/60_exceptions.md R240) and of FSM (spec/10_state.md
R23), the layout of STATUS (R28), and the overflow flag (spec/41_packer.md R161). -/

namespace Sys2Proof.Machine

/-- The 3-bit code in `STATUS.ERR_CODE` (R240). -/
def ErrCode.bits : ErrCode → BitVec 3
  | .none => 0#3
  | .invalidChunkLength => 1#3
  | .badState => 2#3
  | .badLen => 3#3
  | .illegalCmd => 4#3
  | .busyWrite => 5#3

/-- The 2-bit code of the sequencer state (R23). -/
def Fsm.bits : Fsm → BitVec 2
  | .init => 0#2
  | .streaming => 1#2
  | .finalizing => 2#2
  | .done => 3#2

/-- `STATUS` with the given FSM field: BUSY in bit 0, FSM in 2:1, ERR in 3, ERR_CODE in 6:4, OVF in 7, and 31:8 read
as 0 (R28). -/
def State.statusWith (s : State) (fsmBits : BitVec 2) : Word :=
  0#24 ++ BitVec.ofBool s.ovf ++ s.errCode.bits ++ BitVec.ofBool s.err ++ fsmBits ++ BitVec.ofBool s.busy

/-- The overflow condition `COUNT + L >= 2^61`, in unbounded arithmetic (R161). -/
def overflows (count : DWord) (L : Nat) : Bool := decide (2 ^ 61 ≤ count.toNat + L)

/-- A command adds `L` bytes: OVF is set when the condition holds and never cleared (R27, R161), and COUNT advances
modulo 2^64 (R22). -/
def State.addBytes (s : State) (L : Nat) : State :=
  { s with ovf := s.ovf || overflows s.count L, count := s.count + BitVec.ofNat 64 L }

end Sys2Proof.Machine
end

