-- ==== Sys2Proof/Machine/Operands.lean ====
section
/-! DEFINITION. The operands of the commands (spec/30_encoding.md R91): LEN, and the words and bytes of the chunk
buffer that a completion consumes (spec/60_exceptions.md R251). -/

namespace Sys2Proof.Machine

/-- `LEN` as the byte count L of a command: unsigned, no scaling, no extension (R91). -/
def State.lenBytes (s : State) : Nat := s.len.toNat

/-- The number of buffer words that `L` message bytes occupy: `ceil(L/4)` (R91, R251). -/
def wordsFor (L : Nat) : Nat := (L + 3) / 4

/-- The `n` buffer words from word `k` on, if each has been written since reset (R251). -/
def State.bufWords (s : State) (k : Nat) : Nat → Option (List Word)
  | 0 => some []
  | n + 1 =>
    match s.bufWord k, s.bufWords (k + 1) n with
    | some w, some ws => some (w :: ws)
    | _, _ => none

/-- `BUFBYTE(0) .. BUFBYTE(L-1)` (spec/00_scope.md R9, spec/20_memory.md R65), if every word they lie in has been
written since reset (R251). The upper lanes of a partial last word are not among them (spec/41_packer.md R150). -/
def State.bufBytes (s : State) (L : Nat) : Option (List Byte) :=
  match s.bufWords 0 (wordsFor L) with
  | some ws => some ((ws.flatMap bytesOfWord).take L)
  | none => none

/-- `BUF[0..15]`, the block of the command BLOCK (spec/42_sequencer.md R191). -/
def State.bufBlock (s : State) : Option (List Word) := s.bufWords 0 16

/-- How many buffer words, from `BUF[0]` on, the completion of a command consumes (R91, R251). -/
def consumedWords (i : Instr) (s : State) : Nat :=
  match i with
  | .nop => 0
  | .init => 0
  | .chunk => wordsFor s.lenBytes
  | .absorb => s.lenBytes / 4
  | .final => wordsFor s.lenBytes
  | .oneshot => wordsFor s.lenBytes
  | .block => 16

end Sys2Proof.Machine
end

