-- ==== Sys2Proof/Machine/Packer.lean ====
section
/-! DEFINITION. The word packer (spec/41_packer.md): bytes to little-endian words (R150), the padded length (R151),
the marker, the zero bytes and the length field (R152 to R154), and the three modes (R155 to R158). -/

namespace Sys2Proof.Machine

/-- The words of a byte sequence whose length is a multiple of 4 (R150). -/
def wordsOfBytes : List Byte → List Word
  | b0 :: b1 :: b2 :: b3 :: r => wordOfBytes b0 b1 b2 b3 :: wordsOfBytes r
  | _ => []

/-- `w0`: the smallest integer with `w0 >= (L div 4) + 1` and `w0 mod 16 = 14` (R151). -/
def paddedBase (L : Nat) : Nat := (L / 4 + 1) + (30 - (L / 4 + 1) % 16) % 16

/-- The padded word count `n(L) = w0 + 2` (R151). -/
def paddedWords (L : Nat) : Nat := paddedBase L + 2

/-- `BITLEN = ((prior + L) * 8) mod 2^64` (R154). -/
def bitLength (prior : DWord) (L : Nat) : DWord := BitVec.ofNat 64 ((prior.toNat + L) * 8)

/-- The eight bytes of a 64-bit value, least significant first (R154). -/
def bytesOfDWord (v : DWord) : List Byte :=
  bytesOfWord (v.extractLsb' 0 32) ++ bytesOfWord (v.extractLsb' 32 32)

/-- The padded byte sequence `P[0 .. 4n-1]` (R157): the real bytes, the marker 0x80 (R152), zero bytes up to
position `4n - 9` (R153), and BITLEN, least significant byte first (R154). -/
def paddedBytes (bytes : List Byte) (prior : DWord) : List Byte :=
  bytes ++ [0x80#8] ++ List.replicate (4 * paddedWords bytes.length - 8 - (bytes.length + 1)) 0#8
    ++ bytesOfDWord (bitLength prior bytes.length)

/-- The packer's one error (R156). -/
inductive PackError where
  | invalidChunkLength
  deriving DecidableEq, Repr

/-- The three modes of the one packer (R158). -/
inductive PackMode where
  | noPadding
  | finalPadded
  | wholePadded
  deriving DecidableEq, Repr

/-- `pack_no_padding` (R156). -/
def packNoPadding (bytes : List Byte) : Except PackError (List Word) :=
  if bytes.length % 64 ≠ 0 then .error .invalidChunkLength else .ok (wordsOfBytes bytes)

/-- `pack_final_with_padding` (R157). -/
def packFinal (bytes : List Byte) (prior : DWord) : List Word := wordsOfBytes (paddedBytes bytes prior)

/-- `pack_with_padding`: the whole-message mode (R155). -/
def packWhole (bytes : List Byte) : List Word := packFinal bytes 0#64

/-- The packer with its mode parameter (R158). -/
def pack (mode : PackMode) (bytes : List Byte) (prior : DWord) : Except PackError (List Word) :=
  match mode with
  | .noPadding => packNoPadding bytes
  | .finalPadded => .ok (packFinal bytes prior)
  | .wholePadded => .ok (packWhole bytes)

end Sys2Proof.Machine
end

