-- ==== Sys2Proof/Machine/Sequencer.lean ====
section
/-! DEFINITION. What the commands share: the acceptance checks in their order (spec/60_exceptions.md R242), the issue
(spec/42_sequencer.md R181), the completion (R182), and the helper procedures `absorb` (R183) and `finalize` (R184). -/

namespace Sys2Proof.Machine

/-- What the acceptance checks decide of a legal command word. -/
inductive Verdict where
  | accepted
  /-- `raise Error(code); reject`. -/
  | rejected (code : ErrCode)
  /-- Rejected without a record, because ERR = 1 (R243). -/
  | dropped
  deriving DecidableEq, Repr

/-- INIT and ONESHOT start a message: they pass whatever `fsm` and ERR are (R242). -/
def startsMessage : Instr → Bool
  | .nop => false
  | .init => true
  | .chunk => false
  | .absorb => false
  | .final => false
  | .oneshot => true
  | .block => false

/-- The commands that read LEN (R91, R242). -/
def readsLen : Instr → Bool
  | .nop => false
  | .init => false
  | .chunk => true
  | .absorb => true
  | .final => true
  | .oneshot => true
  | .block => false

/-- The acceptance checks for a command that is not NOP, once the state checks have passed (R242). -/
def lenVerdict (i : Instr) (s : State) : Verdict :=
  if readsLen i && decide (s.chunkBytes < s.lenBytes) then .rejected .badLen
  else if i = .absorb ∧ s.lenBytes % 64 ≠ 0 then .rejected .invalidChunkLength
  else .accepted

/-- `accept(v)` of R242 for a word that decodes to `i`, written while BUSY = 0. -/
def acceptance (i : Instr) (s : State) : Verdict :=
  if i = .nop then .accepted
  else if startsMessage i then lenVerdict i s
  else if s.err then .dropped
  else if s.fsm ≠ .streaming then .rejected .badState
  else lenVerdict i s

/-- The effect of accepting a command other than NOP (R181). -/
def acceptEffect (i : Instr) (s : State) : State :=
  if startsMessage i then s.clearErrors.beginCommand i else s.beginCommand i

/-- The issue of command `i` while BUSY = 0 (R181). A rejected command changes nothing but ERR and ERR_CODE. -/
def issue (i : Instr) (s : State) : Host.Outcome State Fault Refusal :=
  match acceptance i s with
  | .accepted => if i = .nop then .next s else .next (acceptEffect i s)
  | .rejected code => .next (s.raiseError code)
  | .dropped => .next s

/-- The completion step: the body as one atomic transition, then `BUSY <- 0` (R182). -/
def complete (body : State → Host.Outcome State Fault Refusal) (s : State) : Host.Outcome State Fault Refusal :=
  andThen (body s) (fun t => .next t.endCommand)

/-- The step of command `i` that the state calls for: its issue while BUSY = 0, its completion while BUSY = 1. A write
to CMD while BUSY = 1 never gets here: the port drops it (spec/20_memory.md R64). Log 1. -/
def commandStep (i : Instr) (body : State → Host.Outcome State Fault Refusal) (s : State) :
    Host.Outcome State Fault Refusal :=
  if s.busy then complete body s else issue i s

/-- `absorb(L)`: whole blocks from the buffer, without padding (R183). -/
def absorb (L : Nat) (s : State) : Host.Outcome State Fault Refusal :=
  match s.bufBytes L with
  | none => .fault .unwrittenBuffer
  | some bytes =>
    match pack .noPadding bytes s.count with
    | .error .invalidChunkLength => .fault .invalidChunkLength
    | .ok words => .next ((s.setDigest (compress s.digest words)).addBytes L)

/-- `fsm <- FINALIZING`, the padded fragment compressed, COUNT and OVF, `fsm <- DONE`: `finalize(L)` once its bytes are
read (R184). COUNT goes to the packer before it is updated. -/
def finalizeBytes (bytes : List Byte) (L : Nat) (s : State) : State :=
  (((s.setFsm .finalizing).setDigest (compress s.digest (packFinal bytes s.count))).addBytes L).setFsm .done

/-- `finalize(L)`: the final fragment padded and compressed, and the message ended (R184). -/
def finalize (L : Nat) (s : State) : Host.Outcome State Fault Refusal :=
  match s.bufBytes L with
  | none => .fault .unwrittenBuffer
  | some bytes => .next (finalizeBytes bytes L s)

end Sys2Proof.Machine
end

