-- ==== Sys2Proof/Machine/Control.lean ====
section
/-! DEFINITION. The meanings of NOP and INIT (spec/42_sequencer.md R185, R186). -/

namespace Sys2Proof.Machine

/-- NOP has no completion body (R185). -/
def nopBody (s : State) : Host.Outcome State Fault Refusal := .next s

/-- NOP: accepted in every state, never busy, no effect (R185, spec/30_encoding.md R94). -/
def execNop (s : State) : Host.Outcome State Fault Refusal := commandStep .nop nopBody s

/-- INIT's completion: the IV, COUNT 0, STREAMING (R186). -/
def initBody (s : State) : Host.Outcome State Fault Refusal :=
  .next (s.loadIv.setFsm .streaming)

/-- INIT: a new message (R186). -/
def execInit (s : State) : Host.Outcome State Fault Refusal := commandStep .init initBody s

end Sys2Proof.Machine
end

