-- ==== Sys2Proof/Machine/Direct.lean ====
section
/-! DEFINITION. The meanings of ONESHOT and BLOCK (spec/42_sequencer.md R190, R191). -/

namespace Sys2Proof.Machine

/-- ONESHOT's completion: the IV, COUNT 0, then `finalize(LEN)` (R190). -/
def oneshotBody (s : State) : Host.Outcome State Fault Refusal :=
  finalize s.lenBytes s.loadIv

/-- ONESHOT: the non-streaming digest of the buffer (R190). -/
def execOneshot (s : State) : Host.Outcome State Fault Refusal := commandStep .oneshot oneshotBody s

/-- BLOCK's completion: one raw compression of `BUF[0..15]`; COUNT and fsm are unchanged (R191). -/
def blockBody (s : State) : Host.Outcome State Fault Refusal :=
  match s.bufBlock with
  | none => .fault .unwrittenBuffer
  | some X => .next (s.setDigest (processBlock s.digest X))

/-- BLOCK: one raw compression (R191). -/
def execBlock (s : State) : Host.Outcome State Fault Refusal := commandStep .block blockBody s

end Sys2Proof.Machine
end

