-- ==== Sys2Proof/Machine/Stream.lean ====
section
/-! DEFINITION. The meanings of the streaming commands CHUNK, ABSORB and FINAL (spec/42_sequencer.md R187 to R189). -/

namespace Sys2Proof.Machine

/-- The end-of-message check of CHUNK, made after the chunk has been added (R187). DESIGN CHOICE where the two halves of
R187 part: a full chunk that wraps COUNT to 0, with USE_TOTAL = 1 and TOTAL = 0, finalises, as the pseudocode says; the
corner case "never finalises automatically" has no wrapped COUNT in view. Log 21. -/
def reachedTotal (s : State) : Bool := s.useTotal && s.count == s.total

/-- CHUNK's completion: a full chunk is absorbed, and finalised with a zero-length fragment if COUNT has reached TOTAL;
a short chunk is finalised (R187). -/
def chunkBody (s : State) : Host.Outcome State Fault Refusal :=
  if s.lenBytes = s.chunkBytes then
    andThen (absorb s.lenBytes s) (fun t => if reachedTotal t then finalize 0 t else .next t)
  else finalize s.lenBytes s

/-- CHUNK: one step of the streaming driver (R187). -/
def execChunk (s : State) : Host.Outcome State Fault Refusal := commandStep .chunk chunkBody s

/-- ABSORB's completion (R188). -/
def absorbBody (s : State) : Host.Outcome State Fault Refusal := absorb s.lenBytes s

/-- ABSORB: an explicit no-padding absorption (R188). -/
def execAbsorb (s : State) : Host.Outcome State Fault Refusal := commandStep .absorb absorbBody s

/-- FINAL's completion (R189). -/
def finalBody (s : State) : Host.Outcome State Fault Refusal := finalize s.lenBytes s

/-- FINAL: an explicit finalisation (R189). -/
def execFinal (s : State) : Host.Outcome State Fault Refusal := commandStep .final finalBody s

end Sys2Proof.Machine
end

