-- ==== Sys2Proof/Machine/Dispatch.lean ====
section
/-! DEFINITION. The dispatch: one arm per command. -/

namespace Sys2Proof.Machine

def exec (i : Instr) (s : State) : Host.Outcome State Fault Refusal :=
  match i with
  | .nop => Sys2Proof.Machine.execNop s
  | .init => Sys2Proof.Machine.execInit s
  | .chunk => Sys2Proof.Machine.execChunk s
  | .absorb => Sys2Proof.Machine.execAbsorb s
  | .final => Sys2Proof.Machine.execFinal s
  | .oneshot => Sys2Proof.Machine.execOneshot s
  | .block => Sys2Proof.Machine.execBlock s

end Sys2Proof.Machine
end

