-- ==== Sys2Proof/Machine/Port.lean ====
section
/-! DEFINITION. The host port (spec/20_memory.md): the register map (R61), the one access form (R62), reads and writes
(R63, R64), and what a read returns while BUSY = 1 (spec/10_state.md R38). -/

namespace Sys2Proof.Machine

/-- The registers of the map (R61). -/
inductive Reg where
  | cmd
  | status
  | len
  | cfg
  | totalLo
  | totalHi
  | countLo
  | countHi
  | stateA
  | stateB
  | stateC
  | stateD
  | chunkSize
  | buf (k : Nat)
  | reserved
  deriving DecidableEq, Repr

/-- An access the port has: 32 bits, word aligned, inside the 64 KiB register space (R60, R62). -/
def portHas (off n : Nat) : Bool := n == 4 && off % 4 == 0 && decide (off < 0x10000)

/-- The register at a byte offset, for a chunk buffer of `cb` bytes (R61). -/
def regAt (cb off : Nat) : Reg :=
  if 0x8000 ≤ off ∧ off < 0x8000 + cb then .buf ((off - 0x8000) / 4)
  else
    match off with
    | 0x0000 => .cmd
    | 0x0004 => .status
    | 0x0008 => .len
    | 0x000C => .cfg
    | 0x0010 => .totalLo
    | 0x0014 => .totalHi
    | 0x0018 => .countLo
    | 0x001C => .countHi
    | 0x0020 => .stateA
    | 0x0024 => .stateB
    | 0x0028 => .stateC
    | 0x002C => .stateD
    | 0x0030 => .chunkSize
    | _ => .reserved

/-- The byte offset of a register (R61). A reserved offset stands for itself only through `off`. -/
def regOffset : Reg → Nat
  | .cmd => 0x0000
  | .status => 0x0004
  | .len => 0x0008
  | .cfg => 0x000C
  | .totalLo => 0x0010
  | .totalHi => 0x0014
  | .countLo => 0x0018
  | .countHi => 0x001C
  | .stateA => 0x0020
  | .stateB => 0x0024
  | .stateC => 0x0028
  | .stateD => 0x002C
  | .chunkSize => 0x0030
  | .buf k => bufAddr k
  | .reserved => 0x0034

/-- The value of `v`, or a free value while BUSY = 1 (R38). -/
def readUnlessBusy (s : State) (v : Word) : Word × State :=
  if s.busy then (s.freeWord, s.drew) else (v, s)

/-- A read of STATUS: while BUSY = 1 its FSM field is a free value and the others are current (R28, R38). -/
def readStatus (s : State) : Word × State :=
  if s.busy then (s.statusWith (s.freeWord.extractLsb' 0 2), s.drew) else (s.statusWith s.fsm.bits, s)

/-- A read of `BUF[k]`: an unwritten word reads as a free value (R35). -/
def readBuf (s : State) (k : Nat) : Word × State :=
  match s.bufWord k with
  | some w => (w, s)
  | none => (s.freeWord, s.drew)

/-- `MemRead(off, 4)`: the value, and the state in which a free value may have been drawn (R64). -/
def readReg (s : State) : Reg → Word × State
  | .cmd => (0#32, s)
  | .status => readStatus s
  | .len => (s.len, s)
  | .cfg => (BitVec.setWidth 32 (BitVec.ofBool s.useTotal), s)
  | .totalLo => (s.total.extractLsb' 0 32, s)
  | .totalHi => (s.total.extractLsb' 32 32, s)
  | .countLo => readUnlessBusy s (s.count.extractLsb' 0 32)
  | .countHi => readUnlessBusy s (s.count.extractLsb' 32 32)
  | .stateA => readUnlessBusy s s.digest.a
  | .stateB => readUnlessBusy s s.digest.b
  | .stateC => readUnlessBusy s s.digest.c
  | .stateD => readUnlessBusy s s.digest.d
  | .chunkSize => (BitVec.ofNat 32 s.chunkBytes, s)
  | .buf k => readBuf s k
  | .reserved => (0#32, s)

/-- The registers a write to which is dropped and raises BUSY_WRITE while BUSY = 1 (R64,
spec/60_exceptions.md R248). -/
def busyGuarded : Reg → Bool
  | .cmd => true
  | .len => true
  | .cfg => true
  | .totalLo => true
  | .totalHi => true
  | .buf _ => true
  | .status => false
  | .countLo => false
  | .countHi => false
  | .stateA => false
  | .stateB => false
  | .stateC => false
  | .stateD => false
  | .chunkSize => false
  | .reserved => false

/-- Command issue: the word written to CMD is decoded; an illegal word raises ILLEGAL_CMD and does nothing else
(spec/30_encoding.md R93, spec/42_sequencer.md R181). -/
def issueWord (v : Word) (s : State) : Host.Outcome State Fault Refusal :=
  match decode v with
  | .ok i => exec i s
  | .error _ => .next (s.raiseError .illegalCmd)

/-- `MemWrite(off, 4, v)` (R64); a write to a read-only register or a reserved offset is ignored (R63). -/
def writeReg (v : Word) (s : State) (r : Reg) : Host.Outcome State Fault Refusal :=
  if busyGuarded r && s.busy then .next (s.raiseError .busyWrite)
  else
    match r with
    | .cmd => issueWord v s
    | .len => .next (s.setLen v)
    | .cfg => .next (s.setCfg v)
    | .totalLo => .next (s.setTotalLo v)
    | .totalHi => .next (s.setTotalHi v)
    | .buf k => .next (s.storeBuf k v)
    | .status => .next s
    | .countLo => .next s
    | .countHi => .next s
    | .stateA => .next s
    | .stateB => .next s
    | .stateC => .next s
    | .stateD => .next s
    | .chunkSize => .next s
    | .reserved => .next s

end Sys2Proof.Machine
end

