-- ==== Sys2Proof/Machine/HostProgram.lean ====
section
/-! DEFINITION. The host agent (spec/00_scope.md R4): its assembly statements (spec/30_encoding.md R95), the
pseudo-instructions (R96), and whose turn the next step is (spec/42_sequencer.md R182, spec/20_memory.md R69). -/

namespace Sys2Proof.Machine

/-- The statement the host executes next. Past the end of its program it has none. -/
def State.hostStmt (s : State) : Option Stmt := s.prog[s.hpc]?

/-- The position of a label in a program (R95). -/
def labelAt (l : Nat) : List Stmt → Option Nat
  | [] => none
  | x :: r => if x = .label l then some 0 else (labelAt l r).map (· + 1)

/-- `WR`: a write by the port's one access form (R62, R64, R95). -/
def hostWrite (off n : Nat) (v : Word) (s : State) : Host.Outcome State Fault Refusal :=
  if portHas off n then writeReg v s.hostNext (regAt s.chunkBytes off) else .refused .notInHardware

/-- `RD`: a read, its value bound to the name if there is one (R64, R95). -/
def hostRead (off n : Nat) (dst : Option Nat) (s : State) : Host.Outcome State Fault Refusal :=
  if portHas off n then
    match readReg s.hostNext (regAt s.chunkBytes off) with
    | (v, t) => .next (t.bindDst dst v)
  else .refused .notInHardware

/-- `BNZ name, mask, label` (R95). -/
def hostBranch (x : Nat) (mask : Word) (l : Nat) (s : State) : Host.Outcome State Fault Refusal :=
  match lookupKey x s.vars with
  | none => .refused .unboundName
  | some v =>
    if v &&& mask ≠ 0#32 then
      match labelAt l s.prog with
      | some k => .next (s.hostGoto k)
      | none => .refused .unknownLabel
    else .next s.hostNext

/-- One step of the host. With no statement left it makes no access and the core waits (R270). Log 3. -/
def hostStep (s : State) : Host.Outcome State Fault Refusal :=
  match s.hostStmt with
  | none => .next s
  | some (.wr off n v) => hostWrite off n v s
  | some (.rd off n dst) => hostRead off n dst s
  | some (.label _) => .next s.hostNext
  | some (.bnz x mask l) => hostBranch x mask l s

/-- One step of the core: the completion of the pending command, enabled exactly when BUSY = 1 (R182). A turn of an
idle core changes nothing. -/
def coreStep (s : State) : Host.Outcome State Fault Refusal :=
  match s.pending with
  | some i => exec i s
  | none => .next s

/-- Whose turn it is: the first of `turns`; when there is none, a busy core completes and otherwise the host moves
(weak fairness, R182). Log 2. -/
def State.turn (s : State) : Turn :=
  match s.turns with
  | t :: _ => t
  | [] => if s.busy then .core else .host

/-- One step of the two agents and the reset input. -/
def systemStep (s : State) : Host.Outcome State Fault Refusal :=
  match s.turn with
  | .host => hostStep s.popTurn
  | .core => coreStep s.popTurn
  | .reset => .next s.popTurn.resetCore

/-! ### Pseudo-instructions (R96) -/

/-- `WR reg, value`. -/
def asmWr (r : Reg) (v : Word) : Stmt := .wr (regOffset r) 4 v

/-- `RD reg -> name`. -/
def asmRd (r : Reg) (x : Nat) : Stmt := .rd (regOffset r) 4 (some x)

/-- `CMD op`. -/
def asmCmd (i : Instr) : List Stmt := [asmWr .cmd (encode i)]

/-- `POLL`, with the fresh label `p` and the fresh name `x`. -/
def asmPoll (p x : Nat) : List Stmt := [.label p, asmRd .status x, .bnz x 0x1#32 p]

/-- `RUN op`: `CMD op` then `POLL`. -/
def asmRun (i : Instr) (p x : Nat) : List Stmt := asmCmd i ++ asmPoll p x

/-- The words of `LOADMSG`, four bytes each; a byte at index `n` or beyond counts as 0. -/
def msgWords : List Byte → List Word
  | [] => []
  | [b0] => [wordOfBytes b0 0#8 0#8 0#8]
  | [b0, b1] => [wordOfBytes b0 b1 0#8 0#8]
  | [b0, b1, b2] => [wordOfBytes b0 b1 b2 0#8]
  | b0 :: b1 :: b2 :: b3 :: r => wordOfBytes b0 b1 b2 b3 :: msgWords r

/-- Writes of words to `BUF[k]`, `BUF[k+1]`, … . -/
def loadWords (k : Nat) : List Word → List Stmt
  | [] => []
  | w :: r => asmWr (.buf k) w :: loadWords (k + 1) r

/-- `LOADMSG bytes(…)`. -/
def asmLoadMsg (bytes : List Byte) : List Stmt := loadWords 0 (msgWords bytes)

/-- `SETLEN n` (R96). DESIGN CHOICE for `n >= 2^32`, for which the spec gives no expansion: the word written is `n`
modulo 2^32. Log 20. -/
def asmSetLen (n : Nat) : List Stmt := [asmWr .len (BitVec.ofNat 32 n)]

/-- `SETTOTAL t` (R96). DESIGN CHOICE for `t >= 2^64`, for which the spec gives no expansion: the word written to
TOTAL_HI is `t div 2^32` modulo 2^32. Log 20. -/
def asmSetTotal (t : Nat) : List Stmt :=
  [asmWr .totalLo (BitVec.ofNat 32 (t % 2 ^ 32)), asmWr .totalHi (BitVec.ofNat 32 (t / 2 ^ 32)), asmWr .cfg 1#32]

/-- `NOTOTAL`. -/
def asmNoTotal : List Stmt := [asmWr .cfg 0#32]

/-- `READDIGEST`, into the names `da`, `db`, `dc`, `dd`. -/
def asmReadDigest (da db dc dd : Nat) : List Stmt :=
  [asmRd .stateA da, asmRd .stateB db, asmRd .stateC dc, asmRd .stateD dd]

/-! ### Placing one command word as the host's next statement -/

/-- The program with its statement `k` set; statements missing before it are labels, which do nothing. -/
def setStmt (x : Stmt) : Nat → List Stmt → List Stmt
  | 0, [] => [x]
  | 0, _ :: r => x :: r
  | k + 1, [] => .label 0 :: setStmt x k []
  | k + 1, y :: r => y :: setStmt x k r

/-- The state in which the host's very next step is the write of `v` to CMD, and reaches the core: the statement at
the host's position is that write, the coming turn is the host's, and BUSY is 0. Log 11. -/
def State.placeCommand (s : State) (v : Word) : State :=
  { s with pending := none, prog := setStmt (asmWr .cmd v) s.hpc s.prog, turns := .host :: s.turns }

end Sys2Proof.Machine
end

