-- ==== Sys2Proof/Machine/Step.lean ====
section
/-! DEFINITION. The step of the machine (spec/00_scope.md R4): one access of the host, one completion of the core, or a
reset; and the placing of a command word where the next step fetches it. -/

namespace Sys2Proof.Machine

/-- One step. -/
def step (s : State) : Host.Outcome State Fault Refusal := systemStep s

/-- `s` with the command word `w` as the host's next write to CMD: the next step decodes and runs it. Bits from `nbits`
up are 0. Log 11. -/
def State.withFetchWord (s : State) (nbits w : Nat) : State := s.placeCommand (BitVec.ofNat 32 (w % 2 ^ nbits))

end Sys2Proof.Machine
end

