-- ==== Sys2Proof/Safety.lean ====
section
/-! DEFINITION. The terms the claims use: the invariant of the machine, what it is for the core to have taken in a
message so far, and the digest of a whole message. -/

namespace Sys2Proof.Machine

/-- The chunk buffer's contents: canonical, and only bytes of the BUF window (spec/20_memory.md R61). -/
def State.memOk (s : State) : Bool :=
  s.mem.wf && s.mem.all (fun c => decide (0x8000 ≤ c.1) && decide (c.1 < 0x8000 + s.chunkBytes))

/-- The written flags: rising, only of words the buffer has, and each flagged word has its contents
(spec/10_state.md R35). -/
def State.writtenOk (s : State) : Bool :=
  risingIdxFrom 0 s.written &&
    s.written.all (fun k => decide (4 * k < s.chunkBytes) && (s.mem.loadWord (bufAddr k)).isSome)

/-- ERR = 1 exactly when ERR_CODE is not 0 (spec/60_exceptions.md R240). -/
def State.errOk (s : State) : Bool := s.err == (s.errCode != .none)

/-- FINALIZING is never the state between two steps (spec/42_sequencer.md R180). -/
def State.fsmOk (s : State) : Bool := s.fsm != .finalizing

/-- The pending command has passed its acceptance checks, and they still hold (spec/42_sequencer.md R181, R182): it is
not NOP, a command that starts no message finds STREAMING, and LEN suits it. -/
def State.pendingOk (s : State) : Bool :=
  match s.pending with
  | none => true
  | some i => i != .nop && (startsMessage i || s.fsm == .streaming) && lenVerdict i s == .accepted

/-- The host's variables are in canonical form. -/
def State.varsOk (s : State) : Bool := risingFrom 0 s.vars

/-- The invariant of the machine: it holds after reset and every step keeps it. -/
structure State.Inv (s : State) : Prop where
  mem : s.memOk = true
  written : s.writtenOk = true
  err : s.errOk = true
  fsm : s.fsmOk = true
  pending : s.pendingOk = true
  vars : s.varsOk = true

/-- The digest of a whole message: the whole-message mode of the packer, compressed from the IV
(spec/41_packer.md R155, spec/42_sequencer.md R190). -/
def md5 (msg : List Byte) : Digest := compress iv (packWhole msg)

/-- The core has taken in exactly the bytes `msg`, whole blocks of them, since the last INIT: STREAMING, the chaining
value of those blocks, and their count modulo 2^64 (spec/42_sequencer.md R183, R194). -/
structure State.Streamed (s : State) (msg : List Byte) : Prop where
  streaming : s.fsm = .streaming
  blocks : msg.length % 64 = 0
  digest : s.digest = compress iv (wordsOfBytes msg)
  count : s.count = BitVec.ofNat 64 msg.length

/-- The message is ended and the digest registers hold its digest (spec/42_sequencer.md R194). -/
structure State.Finished (s : State) (msg : List Byte) : Prop where
  done : s.fsm = .done
  digest : s.digest = md5 msg
  count : s.count = BitVec.ofNat 64 msg.length

end Sys2Proof.Machine
end

