-- ==== Sys2Proof/Certificates/Slice0/Obligations.lean ====
section
/-! DEFINITION. The statements about the machine, for the provers. Each docstring names the rule of spec/ it formalises.
`Obligations.X` is listed in OBLIGATIONS.json with its quote. -/

open Sys2Proof Sys2Proof.Machine

/-! ### Encoding (30_encoding.md) -/

/-- The seven command words of R92, written out, decode to their commands. -/
def Obligations.CommandWordsDecode : Prop :=
  decode 0x00000000#32 = .ok .nop ∧ decode 0x00000001#32 = .ok .init ∧ decode 0x00000002#32 = .ok .chunk ∧
  decode 0x00000003#32 = .ok .absorb ∧ decode 0x00000004#32 = .ok .final ∧ decode 0x00000005#32 = .ok .oneshot ∧
  decode 0x00000006#32 = .ok .block

/-- R92: the word selects opcode OP exactly when `v[31:4] = 0` and `v[3:0] = OP`, for OP from 0 to 6. -/
def Obligations.WordSelectsItsOpcode : Prop :=
  ∀ (v : Word) (i : Instr), decode v = .ok i ↔
    v.toNat / 16 = 0 ∧
      v.toNat % 16 = (match i with
        | .nop => 0 | .init => 1 | .chunk => 2 | .absorb => 3 | .final => 4 | .oneshot => 5 | .block => 6)

/-- Decode and encode agree, both ways: each command has one word, and no word has two commands. -/
def Obligations.DecodeAgreesWithEncode : Prop :=
  (∀ i : Instr, i.wf = true ∧ decode (encode i) = .ok i) ∧ ∀ (v : Word) (i : Instr), decode v = .ok i → v = encode i

/-- R247: a word with `v[31:4] != 0` or `v[3:0]` from 7 to 15, written to CMD while BUSY = 0, raises ILLEGAL_CMD: ERR and
ERR_CODE if ERR was 0, and nothing else. -/
def Obligations.IllegalWordRaisesIllegalCmd : Prop :=
  ∀ (s : State) (v : Word), s.busy = false → (v.toNat / 16 ≠ 0 ∨ 7 ≤ v.toNat % 16) →
    hostWrite 0x0000 4 v s =
      .next (if s.err = false then { s.hostNext with err := true, errCode := .illegalCmd } else s.hostNext)

/-! ### The compression function (40_compression.md) -/

/-- R110: addition modulo 2^32, commutative and associative. R111: `r[(j + n) mod 32] = x[j]` for every bit `j`, for counts
1 to 31. -/
def Obligations.WordArithmeticWrapsAndRotates : Prop :=
  (∀ x y z : Word, (add32 x y).toNat = (x.toNat + y.toNat) % 2 ^ 32 ∧ add32 x y = add32 y x ∧
    add32 (add32 x y) z = add32 x (add32 y z)) ∧
  ∀ (x : Word) (n j : Nat), 1 ≤ n → n ≤ 31 → j < 32 → (rotl32 x n).getLsbD ((j + n) % 32) = x.getLsbD j

/-- R112 to R115, bit by bit: F selects by b, G selects by d. R116: F for steps 0 to 15, G for 16 to 31, H for 32 to 47, I for
48 to 63. -/
def Obligations.NonlinearFunctionsByRound : Prop :=
  (∀ (b c d : Word) (j : Nat), j < 32 →
    (fF b c d).getLsbD j = (if b.getLsbD j then c.getLsbD j else d.getLsbD j) ∧
    (fG b c d).getLsbD j = (if d.getLsbD j then b.getLsbD j else c.getLsbD j) ∧
    (fH b c d).getLsbD j = ((b.getLsbD j).xor ((c.getLsbD j).xor (d.getLsbD j))) ∧
    (fI b c d).getLsbD j = ((c.getLsbD j).xor (b.getLsbD j || !d.getLsbD j))) ∧
  ∀ i : Nat, (i < 16 → fnOf i = fF) ∧ (16 ≤ i ∧ i < 32 → fnOf i = fG) ∧ (32 ≤ i ∧ i < 48 → fnOf i = fH) ∧
    (48 ≤ i ∧ i < 64 → fnOf i = fI)

/-- R122: the shift amounts, period 4 inside each round, every value in 1 to 31. R123: the word index of each step, and each
round uses each of the 16 message words exactly once. R121: the 64 additive constants, written out. (The spec supplies the
three tables from general knowledge: log 15.) -/
def Obligations.StepScheduleOfEachRound : Prop :=
  (∀ i, i < 16 → shiftAmt i = [7, 12, 17, 22].getD (i % 4) 0 ∧ wordIdx i = i % 16) ∧
  (∀ i, 16 ≤ i → i < 32 → shiftAmt i = [5, 9, 14, 20].getD (i % 4) 0 ∧ wordIdx i = (5 * i + 1) % 16) ∧
  (∀ i, 32 ≤ i → i < 48 → shiftAmt i = [4, 11, 16, 23].getD (i % 4) 0 ∧ wordIdx i = (3 * i + 5) % 16) ∧
  (∀ i, 48 ≤ i → i < 64 → shiftAmt i = [6, 10, 15, 21].getD (i % 4) 0 ∧ wordIdx i = (7 * i) % 16) ∧
  (∀ i, i < 64 → 1 ≤ shiftAmt i ∧ shiftAmt i ≤ 31) ∧
  (∀ r k : Nat, r < 4 → k < 16 → ∃ j, j < 16 ∧ wordIdx (16 * r + j) = k ∧
    ∀ j', j' < 16 → wordIdx (16 * r + j') = k → j' = j) ∧
  (List.range 64).map tConst =
    ([0xd76aa478#32, 0xe8c7b756#32, 0x242070db#32, 0xc1bdceee#32, 0xf57c0faf#32, 0x4787c62a#32, 0xa8304613#32, 0xfd469501#32,
       0x698098d8#32, 0x8b44f7af#32, 0xffff5bb1#32, 0x895cd7be#32, 0x6b901122#32, 0xfd987193#32, 0xa679438e#32, 0x49b40821#32] ++
      [0xf61e2562#32, 0xc040b340#32, 0x265e5a51#32, 0xe9b6c7aa#32, 0xd62f105d#32, 0x02441453#32, 0xd8a1e681#32, 0xe7d3fbc8#32,
       0x21e1cde6#32, 0xc33707d6#32, 0xf4d50d87#32, 0x455a14ed#32, 0xa9e3e905#32, 0xfcefa3f8#32, 0x676f02d9#32, 0x8d2a4c8a#32] ++
      [0xfffa3942#32, 0x8771f681#32, 0x6d9d6122#32, 0xfde5380c#32, 0xa4beea44#32, 0x4bdecfa9#32, 0xf6bb4b60#32, 0xbebfbc70#32,
       0x289b7ec6#32, 0xeaa127fa#32, 0xd4ef3085#32, 0x04881d05#32, 0xd9d4d039#32, 0xe6db99e5#32, 0x1fa27cf8#32, 0xc4ac5665#32] ++
      [0xf4292244#32, 0x432aff97#32, 0xab9423a7#32, 0xfc93a039#32, 0x655b59c3#32, 0x8f0ccc92#32, 0xffeff47d#32, 0x85845dd1#32,
       0x6fa87e4f#32, 0xfe2ce6e0#32, 0xa3014314#32, 0x4e0811a1#32, 0xf7537e82#32, 0xbd3af235#32, 0x2ad7d2bb#32, 0xeb86d391#32])

/-- R118, R119: step `i` performs `w <- mix(fn_i(p, q, r), w, p, X[k_i], s_i, T_i)` with the roles of the table, and only
`w` changes. (The spec takes the operand roles `p`, `q`, `r` from general knowledge, and the model presumes them: log 15. The
statement also speaks of lists that are not 16 words; that a missing word counts as 0 is the model's: log 19.) -/
def Obligations.StepUpdatesOneRegisterInRoles : Prop :=
  (∀ (f a b x : Word) (n : Nat) (c : Word), mix f a b x n c = add32 (rotl32 (a + f + x + c) n) b) ∧
  ∀ (X : List Word) (s : Digest) (i : Nat), i < 64 →
    (i % 4 = 0 → md5Step X s i =
      { s with a := mix (fnOf i s.b s.c s.d) s.a s.b (X.getD (wordIdx i) 0) (shiftAmt i) (tConst i) }) ∧
    (i % 4 = 1 → md5Step X s i =
      { s with d := mix (fnOf i s.a s.b s.c) s.d s.a (X.getD (wordIdx i) 0) (shiftAmt i) (tConst i) }) ∧
    (i % 4 = 2 → md5Step X s i =
      { s with c := mix (fnOf i s.d s.a s.b) s.c s.d (X.getD (wordIdx i) 0) (shiftAmt i) (tConst i) }) ∧
    (i % 4 = 3 → md5Step X s i =
      { s with b := mix (fnOf i s.c s.d s.a) s.b s.c (X.getD (wordIdx i) 0) (shiftAmt i) (tConst i) })

/-- R120: the rotating form of the step, written out, gives after step 63 the same four words as the form of R119, whose
steps run in increasing order. (The operand roles: log 15. A list that is not 16 words: log 19.) -/
def Obligations.RotatingFormEqualsRoleForm : Prop :=
  ∀ (X : List Word) (s : Digest),
    md5StepsRot X s 64 = md5Steps X s 64 ∧ md5StepsRot X s 0 = s ∧ md5Steps X s 0 = s ∧
    ∀ i, i < 64 →
      md5Steps X s (i + 1) = md5Step X (md5Steps X s i) i ∧
      md5StepsRot X s (i + 1) =
        ⟨(md5StepsRot X s i).d,
         (md5StepsRot X s i).b + rotl32 ((md5StepsRot X s i).a +
           fnOf i (md5StepsRot X s i).b (md5StepsRot X s i).c (md5StepsRot X s i).d + X.getD (wordIdx i) 0 + tConst i)
           (shiftAmt i),
         (md5StepsRot X s i).b, (md5StepsRot X s i).c⟩

/-- R124, R126: a block sequence is compressed block after block, each from the state the one before it left, and each
block chains its input state into its output. R127: two passes with the state carried between them equal one pass. (A list
that is not 16 words, and words after the last whole block, which `compress` leaves out: log 19.) -/
def Obligations.BlocksCompressInOrderWithChaining : Prop :=
  (∀ (s : Digest) (X : List Word),
    (processBlock s X).a = s.a + (md5Steps X s 64).a ∧ (processBlock s X).b = s.b + (md5Steps X s 64).b ∧
    (processBlock s X).c = s.c + (md5Steps X s 64).c ∧ (processBlock s X).d = s.d + (md5Steps X s 64).d) ∧
  (∀ (s : Digest) (X ws : List Word), X.length = 16 →
    compress s (X ++ ws) = compress (processBlock s X) ws ∧ compress s [] = s) ∧
  ∀ (s : Digest) (ws vs : List Word), ws.length % 16 = 0 → compress s (ws ++ vs) = compress (compress s ws) vs

/-! ### The packer (41_packer.md) -/

/-- R151: `n(L) - 2` is the smallest integer at least `L div 4 + 1` that is 14 modulo 16; `n(L) = 16 * nblk(L)`, the
smallest number of blocks that holds `L + 9` bytes. -/
def Obligations.PaddedWordCountIsSmallest : Prop :=
  ∀ L : Nat, paddedWords L = 16 * ((L + 8) / 64 + 1) ∧ L / 4 + 1 ≤ paddedWords L - 2 ∧ (paddedWords L - 2) % 16 = 14 ∧
    (∀ w, L / 4 + 1 ≤ w → w % 16 = 14 → paddedWords L - 2 ≤ w) ∧ L + 9 ≤ 4 * paddedWords L ∧
    ∀ m, L + 9 ≤ 64 * m → (L + 8) / 64 + 1 ≤ m

/-- R152, R153, R154, R157: the padded byte sequence, position by position, and its last two words: the low and the high half
of the bit length modulo 2^64. -/
def Obligations.PaddedFragmentLayout : Prop :=
  ∀ (bytes : List Byte) (prior : DWord),
    (paddedBytes bytes prior).length = 4 * paddedWords bytes.length ∧
    (∀ p, p < bytes.length → (paddedBytes bytes prior)[p]? = bytes[p]?) ∧
    (paddedBytes bytes prior)[bytes.length]? = some 0x80#8 ∧
    (∀ p, bytes.length < p → p < 4 * paddedWords bytes.length - 8 → (paddedBytes bytes prior)[p]? = some 0#8) ∧
    (∀ j, j < 8 → (paddedBytes bytes prior)[4 * paddedWords bytes.length - 8 + j]? =
      some (BitVec.ofNat 8 ((prior.toNat + bytes.length) * 8 % 2 ^ 64 / 2 ^ (8 * j)))) ∧
    packFinal bytes prior = wordsOfBytes (paddedBytes bytes prior) ∧
    (packFinal bytes prior).length = paddedWords bytes.length ∧
    (packFinal bytes prior)[paddedWords bytes.length - 2]? =
      some (BitVec.ofNat 32 ((prior.toNat + bytes.length) * 8 % 2 ^ 64)) ∧
    (packFinal bytes prior)[paddedWords bytes.length - 1]? =
      some (BitVec.ofNat 32 ((prior.toNat + bytes.length) * 8 % 2 ^ 64 / 2 ^ 32))

/-- R150: byte `4w + j` of a sequence is bits `8j+7 : 8j` of word `w`; and packing the first `L` bytes of the buffer gives
`BUF[w]` itself for every `w < L div 4`. R65: byte `i` of the buffer is bits `8(i mod 4)+7 : 8(i mod 4)` of `BUF[i div 4]`,
a partial last word included. -/
def Obligations.WordsPackLittleEndian : Prop :=
  (∀ (bs : List Byte) (w j : Nat), bs.length % 4 = 0 → j < 4 → w < bs.length / 4 →
    ∃ v, (wordsOfBytes bs)[w]? = some v ∧ bs[4 * w + j]? = some (v.extractLsb' (8 * j) 8)) ∧
  (∀ (s : State) (L : Nat) (bytes : List Byte) (prior : DWord) (w : Nat), s.bufBytes L = some bytes → w < L / 4 →
    (packFinal bytes prior)[w]? = s.bufWord w) ∧
  ∀ (s : State) (L : Nat) (bytes : List Byte), s.bufBytes L = some bytes →
    bytes.length = L ∧
    ∀ i, i < L → bytes[i]? = (s.bufWord (i / 4)).map (fun w => w.extractLsb' (8 * (i % 4)) 8)

/-- R155, R156, R158: the modes of the one packer; the no-padding mode fails exactly on a length that is not a multiple
of 64. R160, R125: whatever the mode gives is a whole number of 16-word blocks, and the blocks in order are its words. -/
def Obligations.PackerModesGiveWholeBlocks : Prop :=
  (∀ (bytes : List Byte) (prior : DWord),
    pack .finalPadded bytes prior = .ok (packFinal bytes prior) ∧
    pack .wholePadded bytes prior = .ok (packFinal bytes 0#64) ∧
    (bytes.length % 64 = 0 → pack .noPadding bytes prior = .ok (wordsOfBytes bytes)) ∧
    (bytes.length % 64 ≠ 0 → pack .noPadding bytes prior = .error .invalidChunkLength)) ∧
  ∀ (mode : PackMode) (bytes : List Byte) (prior : DWord) (words : List Word), pack mode bytes prior = .ok words →
    words.length % 16 = 0 ∧ (blocksOf (words.length / 16) words).flatten = words ∧
    ∀ X ∈ blocksOf (words.length / 16) words, X.length = 16

/-- R150 (corner case), U21: the upper lanes of a partial last word, and the words after it, are never used. -/
def Obligations.UnusedLanesNeverRead : Prop :=
  ∀ (s : State) (L k : Nat) (v v' : Word),
    (k = L / 4 → (∀ b, b < 8 * (L % 4) → v.getLsbD b = v'.getLsbD b) →
      (s.storeBuf k v).bufBytes L = (s.storeBuf k v').bufBytes L) ∧
    (wordsFor L ≤ k → (s.storeBuf k v).bufBytes L = s.bufBytes L)

/-! ### Registers and the port (10_state.md, 20_memory.md) -/

/-- R39: the state after reset, at every legal chunk size; `State.reset` has 64. (The values of the host side are log 18's
choice and are not stated.) -/
def Obligations.ResetStateValues : Prop :=
  ∀ c : Fin 512,
    (State.powerOn c).digest = ⟨0x67452301#32, 0xefcdab89#32, 0x98badcfe#32, 0x10325476#32⟩ ∧
    (State.powerOn c).count = 0#64 ∧ (State.powerOn c).fsm = .init ∧ (State.powerOn c).busy = false ∧
    (State.powerOn c).pending = none ∧ (State.powerOn c).err = false ∧ (State.powerOn c).errCode = .none ∧
    (State.powerOn c).ovf = false ∧ (State.powerOn c).len = 0#32 ∧ (State.powerOn c).useTotal = false ∧
    (State.powerOn c).total = 0#64 ∧ (State.powerOn c).chunkBytes = 64 * (c.val + 1) ∧
    (∀ k, (State.powerOn c).isWritten k = false) ∧ State.reset.chunkBytes = 64

/-- R5, R278: every core that can be built has a legal chunk size, and each legal size, and no other, can be built. -/
def Obligations.ChunkSizeLegalByConstruction : Prop :=
  (∀ s : State, Config.legalChunkBytes s.chunkBytes = true) ∧
  ∀ n : Nat, (Config.buildChunk n).isSome = Config.legalChunkBytes n ∧
    ∀ c, Config.buildChunk n = some c → (State.powerOn c).chunkBytes = n

/-- R28: the layout of STATUS. R240 and R23: the codes the host reads in ERR_CODE and in FSM. -/
def Obligations.StatusLayout : Prop :=
  (∀ (s : State) (f : BitVec 2),
    (s.statusWith f).extractLsb' 0 1 = BitVec.ofBool s.busy ∧ (s.statusWith f).extractLsb' 1 2 = f ∧
    (s.statusWith f).extractLsb' 3 1 = BitVec.ofBool s.err ∧ (s.statusWith f).extractLsb' 4 3 = s.errCode.bits ∧
    (s.statusWith f).extractLsb' 7 1 = BitVec.ofBool s.ovf ∧ (s.statusWith f).extractLsb' 8 24 = 0#24) ∧
  (ErrCode.none.bits = 0#3 ∧ ErrCode.invalidChunkLength.bits = 1#3 ∧ ErrCode.badState.bits = 2#3 ∧
    ErrCode.badLen.bits = 3#3 ∧ ErrCode.illegalCmd.bits = 4#3 ∧ ErrCode.busyWrite.bits = 5#3) ∧
  Fsm.init.bits = 0#2 ∧ Fsm.streaming.bits = 1#2 ∧ Fsm.finalizing.bits = 2#2 ∧ Fsm.done.bits = 3#2

/-- R61, R64: what a host read returns while BUSY = 0, register by register; a read changes nothing of the core.
R95: the value is bound to the read's name, or dropped where it has none. (What binding does: HostBranchFollowsTheMask.) -/
def Obligations.IdleReadsReturnTheRegisters : Prop :=
  (∀ (s : State) (v : Word), s.bindDst none v = s ∧ ∀ x : Nat, s.bindDst (some x) v = s.bindVar x v) ∧
  ∀ (s : State) (dst : Option Nat), s.busy = false →
    hostRead 0x0000 4 dst s = .next (s.hostNext.bindDst dst 0#32) ∧
    hostRead 0x0004 4 dst s = .next (s.hostNext.bindDst dst (s.statusWith s.fsm.bits)) ∧
    hostRead 0x0008 4 dst s = .next (s.hostNext.bindDst dst s.len) ∧
    hostRead 0x000C 4 dst s = .next (s.hostNext.bindDst dst (if s.useTotal then 1#32 else 0#32)) ∧
    hostRead 0x0010 4 dst s = .next (s.hostNext.bindDst dst (s.total.extractLsb' 0 32)) ∧
    hostRead 0x0014 4 dst s = .next (s.hostNext.bindDst dst (s.total.extractLsb' 32 32)) ∧
    hostRead 0x0018 4 dst s = .next (s.hostNext.bindDst dst (s.count.extractLsb' 0 32)) ∧
    hostRead 0x001C 4 dst s = .next (s.hostNext.bindDst dst (s.count.extractLsb' 32 32)) ∧
    hostRead 0x0020 4 dst s = .next (s.hostNext.bindDst dst s.digest.a) ∧
    hostRead 0x0024 4 dst s = .next (s.hostNext.bindDst dst s.digest.b) ∧
    hostRead 0x0028 4 dst s = .next (s.hostNext.bindDst dst s.digest.c) ∧
    hostRead 0x002C 4 dst s = .next (s.hostNext.bindDst dst s.digest.d) ∧
    hostRead 0x0030 4 dst s = .next (s.hostNext.bindDst dst (BitVec.ofNat 32 s.chunkBytes)) ∧
    ∀ k w, 4 * k < s.chunkBytes → s.bufWord k = some w →
      hostRead (0x8000 + 4 * k) 4 dst s = .next (s.hostNext.bindDst dst w)

/-- R38, R35: while BUSY = 1 the reads of STATE_A..D, COUNT and STATUS.FSM, and at any time the read of an unwritten BUF
word, return a fresh free value (whatever `Config.freeWord` is); the operand registers and the other STATUS fields read
their current values. Nothing of the core changes.
The read without a name draws its value too. (The counter behind the draws is the model's: log 5.) -/
def Obligations.UnspecifiedReadsAreFreeValues : Prop :=
  ∀ (s : State) (dst : Option Nat),
    (s.busy = true →
      (∀ off ∈ [0x0018, 0x001C, 0x0020, 0x0024, 0x0028, 0x002C],
        hostRead off 4 dst s =
          .next ({ s.hostNext with draws := s.draws + 1 }.bindDst dst (Config.freeWord s.draws))) ∧
      hostRead 0x0004 4 dst s =
        .next ({ s.hostNext with draws := s.draws + 1 }.bindDst dst
          (s.statusWith ((Config.freeWord s.draws).extractLsb' 0 2))) ∧
      hostRead 0x0008 4 dst s = .next (s.hostNext.bindDst dst s.len) ∧
      hostRead 0x000C 4 dst s = .next (s.hostNext.bindDst dst (if s.useTotal then 1#32 else 0#32)) ∧
      hostRead 0x0010 4 dst s = .next (s.hostNext.bindDst dst (s.total.extractLsb' 0 32)) ∧
      hostRead 0x0014 4 dst s = .next (s.hostNext.bindDst dst (s.total.extractLsb' 32 32)) ∧
      hostRead 0x0030 4 dst s = .next (s.hostNext.bindDst dst (BitVec.ofNat 32 s.chunkBytes)) ∧
      ∀ k w, 4 * k < s.chunkBytes → s.bufWord k = some w →
        hostRead (0x8000 + 4 * k) 4 dst s = .next (s.hostNext.bindDst dst w)) ∧
    ∀ k, 4 * k < s.chunkBytes → s.isWritten k = false →
      hostRead (0x8000 + 4 * k) 4 dst s =
          .next ({ s.hostNext with draws := s.draws + 1 }.bindDst dst (Config.freeWord s.draws))

/-- R63: reserved offsets and CMD read 0; a write to a reserved offset or to a read-only register is ignored, whether BUSY
is 0 or 1, and raises nothing. The read may have a name or none (R95). -/
def Obligations.ReservedAndReadOnlyOffsets : Prop :=
  ∀ (s : State) (off : Nat) (dst : Option Nat) (v : Word), off % 4 = 0 → off < 0x10000 →
    ((0x0034 ≤ off ∧ off < 0x8000) ∨ 0x8000 + s.chunkBytes ≤ off →
      hostRead off 4 dst s = .next (s.hostNext.bindDst dst 0#32) ∧ hostWrite off 4 v s = .next s.hostNext) ∧
    (off = 0x0004 ∨ (0x0018 ≤ off ∧ off ≤ 0x0030) → hostWrite off 4 v s = .next s.hostNext) ∧
    hostRead 0x0000 4 dst s = .next (s.hostNext.bindDst dst 0#32)

/-- R62: an access that is not 32 bits wide, not word aligned or not inside the register space is refused. -/
def Obligations.OtherAccessFormsRefused : Prop :=
  ∀ (s : State) (off n : Nat) (v : Word) (dst : Option Nat), (n ≠ 4 ∨ off % 4 ≠ 0 ∨ 0x10000 ≤ off) →
    hostWrite off n v s = .refused .notInHardware ∧ hostRead off n dst s = .refused .notInHardware

/-- R29, R30, R31: the operand registers, written while BUSY = 0: LEN whole, bit 0 of CFG, each half of TOTAL. -/
def Obligations.OperandRegisterWrites : Prop :=
  ∀ (s : State) (v : Word), s.busy = false →
    hostWrite 0x0008 4 v s = .next { s.hostNext with len := v } ∧
    hostWrite 0x000C 4 v s = .next { s.hostNext with useTotal := v.getLsbD 0 } ∧
    hostWrite 0x0010 4 v s =
      .next { s.hostNext with total := BitVec.ofNat 64 (s.total.toNat / 2 ^ 32 * 2 ^ 32 + v.toNat) } ∧
    hostWrite 0x0014 4 v s =
      .next { s.hostNext with total := BitVec.ofNat 64 (v.toNat * 2 ^ 32 + s.total.toNat % 2 ^ 32) }

/-- R35, R64, R65: a write to BUF[k] while BUSY = 0 stores the word, least significant byte at the lowest position, marks
it written, and leaves every other byte, every other word and every other register alone. -/
def Obligations.BufferWriteStoresOneWord : Prop :=
  ∀ (s : State) (k : Nat) (v : Word), s.busy = false → 4 * k < s.chunkBytes →
    ∃ t, hostWrite (0x8000 + 4 * k) 4 v s = .next t ∧ t.bufWord k = some v ∧
      (∀ j, j < 4 → lookupKey (0x8000 + 4 * k + j) t.mem = some (v.extractLsb' (8 * j) 8)) ∧
      (∀ a, a < 0x8000 + 4 * k ∨ 0x8000 + 4 * k + 4 ≤ a → lookupKey a t.mem = lookupKey a s.mem) ∧
      (∀ j, j ≠ k → t.bufWord j = s.bufWord j ∧ t.isWritten j = s.isWritten j) ∧
      t = { s.hostNext with mem := t.mem, written := t.written }

/-- R66: byte `4r + j` of the digest is bits `8j+7 : 8j` of register `r` of A, B, C, D. -/
def Obligations.DigestByteOrder : Prop :=
  ∀ (x : Digest) (j : Nat), j < 4 →
    (digestBytes x)[j]? = some (x.a.extractLsb' (8 * j) 8) ∧ (digestBytes x)[4 + j]? = some (x.b.extractLsb' (8 * j) 8) ∧
    (digestBytes x)[8 + j]? = some (x.c.extractLsb' (8 * j) 8) ∧
    (digestBytes x)[12 + j]? = some (x.d.extractLsb' (8 * j) 8) ∧ (digestBytes x).length = 16

/-- R96 (LOADMSG), R65: LOADMSG is one 32-bit write for each of `ceil(n/4)` words, word `k` to `BUF[k]`, in order; the words
hold the message bytes in order, and zero bytes after them. -/
def Obligations.LoadMsgWordsHoldTheMessage : Prop :=
  ∀ bytes : List Byte, (msgWords bytes).length = (bytes.length + 3) / 4 ∧
    (msgWords bytes).flatMap bytesOfWord = bytes ++ List.replicate (4 * ((bytes.length + 3) / 4) - bytes.length) 0#8 ∧
    (asmLoadMsg bytes).length = (bytes.length + 3) / 4 ∧
    (∀ (k : Nat) (w : Word), (msgWords bytes)[k]? = some w → (asmLoadMsg bytes)[k]? = some (.wr (0x8000 + 4 * k) 4 w)) ∧
    ∀ w : Word, bytesOfWord w =
      [w.extractLsb' 0 8, w.extractLsb' 8 8, w.extractLsb' 16 8, w.extractLsb' 24 8]

/-! ### Errors and acceptance (60_exceptions.md) -/

/-- R241: the first error is recorded, a later one is not, and a raise changes nothing else. -/
def Obligations.RaiseRecordsFirstErrorOnly : Prop :=
  ∀ (s : State) (code : ErrCode),
    (s.err = false → s.raiseError code = { s with err := true, errCode := code }) ∧
    (s.err = true → s.raiseError code = s)

/-- R245: CHUNK, ABSORB, FINAL and BLOCK raise BAD_STATE unless `fsm` is STREAMING, whatever LEN is; NOP, INIT and ONESHOT
never do. -/
def Obligations.BadStateOutsideStreaming : Prop :=
  ∀ (s : State) (i : Instr), s.busy = false →
    (i = .chunk ∨ i = .absorb ∨ i = .final ∨ i = .block → s.err = false → s.fsm ≠ .streaming →
      exec i s = .next { s with err := true, errCode := .badState }) ∧
    (i = .nop ∨ i = .init ∨ i = .oneshot → ∀ t, exec i s = .next t → t.errCode = .badState → s.errCode = .badState)

/-- R246: `LEN > CHUNK_BYTES` raises BAD_LEN for CHUNK, ABSORB, FINAL and ONESHOT once the earlier checks pass. R244: ABSORB
with LEN not a multiple of 64 raises INVALID_CHUNK_LENGTH when the earlier checks pass; CHUNK never raises it. -/
def Obligations.LengthErrorsAtAcceptance : Prop :=
  (∀ (s : State) (i : Instr), s.busy = false → s.chunkBytes < s.len.toNat →
    (i = .chunk ∨ i = .absorb ∨ i = .final → s.err = false → s.fsm = .streaming →
      exec i s = .next { s with err := true, errCode := .badLen }) ∧
    (i = .oneshot → exec i s =
      .next (if s.err = false then { s with err := true, errCode := .badLen } else s))) ∧
  ∀ s : State, s.busy = false → s.err = false →
    (s.fsm = .streaming → s.len.toNat ≤ s.chunkBytes → s.len.toNat % 64 ≠ 0 →
      exec .absorb s = .next { s with err := true, errCode := .invalidChunkLength }) ∧
    ∀ i t, i ≠ .absorb → exec i s = .next t → t.errCode = .invalidChunkLength → s.errCode = .invalidChunkLength

/-- R243: while ERR = 1 every CHUNK, ABSORB, FINAL and BLOCK is dropped without a record. -/
def Obligations.CommandsDroppedWhileErr : Prop :=
  ∀ (s : State) (i : Instr), s.busy = false → s.err = true →
    i = .chunk ∨ i = .absorb ∨ i = .final ∨ i = .block → exec i s = .next s

/-- R181: an accepted command becomes the pending one and sets BUSY; INIT and ONESHOT clear ERR, ERR_CODE and OVF; NOP does
nothing. Each under exactly the acceptance conditions of R185 to R191. -/
def Obligations.AcceptedCommandBecomesPending : Prop :=
  ∀ s : State, s.busy = false →
    exec .nop s = .next s ∧
    exec .init s = .next { s with err := false, errCode := .none, ovf := false, pending := some .init } ∧
    (s.len.toNat ≤ s.chunkBytes →
      exec .oneshot s = .next { s with err := false, errCode := .none, ovf := false, pending := some .oneshot }) ∧
    (s.fsm = .streaming → s.err = false → s.len.toNat ≤ s.chunkBytes →
      exec .chunk s = .next { s with pending := some .chunk } ∧ exec .final s = .next { s with pending := some .final }) ∧
    (s.fsm = .streaming → s.err = false → s.len.toNat ≤ s.chunkBytes → s.len.toNat % 64 = 0 →
      exec .absorb s = .next { s with pending := some .absorb }) ∧
    (s.fsm = .streaming → s.err = false → exec .block s = .next { s with pending := some .block })

/-- R248: while BUSY = 1 a write to CMD, LEN, CFG, TOTAL_LO, TOTAL_HI or a BUF word is dropped and raises BUSY_WRITE; the
command in progress is not affected. -/
def Obligations.GuardedWritesDroppedWhileBusy : Prop :=
  ∀ (s : State) (off : Nat) (v : Word), s.busy = true → off % 4 = 0 →
    (off = 0x0000 ∨ off = 0x0008 ∨ off = 0x000C ∨ off = 0x0010 ∨ off = 0x0014 ∨
      (0x8000 ≤ off ∧ off < 0x8000 + s.chunkBytes)) →
    hostWrite off 4 v s =
      .next (if s.err = false then { s.hostNext with err := true, errCode := .busyWrite } else s.hostNext)

/-! ### The commands (42_sequencer.md): completion -/

/-- R185, R94: NOP is accepted in every state, sets no BUSY and changes nothing. -/
def Obligations.NopChangesNothing : Prop :=
  ∀ s : State, s.busy = false → exec .nop s = .next s

/-- R186: the completion of INIT. LEN, CFG, TOTAL and BUF are not changed. -/
def Obligations.InitCompletes : Prop :=
  ∀ s : State, s.pending = some .init →
    exec .init s = .next { s with
      digest := ⟨0x67452301#32, 0xefcdab89#32, 0x98badcfe#32, 0x10325476#32⟩, count := 0#64, fsm := .streaming,
      pending := none }

/-- R187, R183: the completion of CHUNK on a full chunk that does not bring COUNT to TOTAL (or with USE_TOTAL = 0). -/
def Obligations.FullChunkIsAbsorbed : Prop :=
  ∀ (s : State) (bytes : List Byte), s.pending = some .chunk → s.len.toNat = s.chunkBytes →
    s.bufBytes s.len.toNat = some bytes →
    (s.useTotal = false ∨ s.count + BitVec.ofNat 64 s.len.toNat ≠ s.total) →
    exec .chunk s = .next { s with
      digest := compress s.digest (wordsOfBytes bytes), count := s.count + BitVec.ofNat 64 s.len.toNat,
      ovf := s.ovf || decide (2 ^ 61 ≤ s.count.toNat + s.len.toNat), pending := none }

/-- R187: a full chunk after which COUNT equals TOTAL, with USE_TOTAL = 1, is absorbed and the message is finalised with a
zero-length fragment.
(Where COUNT wraps to a TOTAL of 0, R187's pseudocode and its corner case part; the model follows the pseudocode: log 21.) -/
def Obligations.ChunkReachingTotalFinalises : Prop :=
  ∀ (s : State) (bytes : List Byte), s.pending = some .chunk → s.len.toNat = s.chunkBytes →
    s.bufBytes s.len.toNat = some bytes → s.useTotal = true →
    s.count + BitVec.ofNat 64 s.len.toNat = s.total →
    exec .chunk s = .next { s with
      digest := compress (compress s.digest (wordsOfBytes bytes)) (packFinal [] s.total), count := s.total,
      ovf := s.ovf || decide (2 ^ 61 ≤ s.count.toNat + s.len.toNat) || decide (2 ^ 61 ≤ s.total.toNat),
      fsm := .done, pending := none }

/-- R187, R189, R184: the completion of FINAL, and of CHUNK on a short chunk: the fragment is padded with COUNT as the prior
count, compressed, counted, and the message ends in DONE. -/
def Obligations.FinalAndShortChunkFinalise : Prop :=
  ∀ (s : State) (i : Instr) (bytes : List Byte),
    (i = .final ∨ (i = .chunk ∧ s.len.toNat < s.chunkBytes)) → s.pending = some i →
    s.bufBytes s.len.toNat = some bytes →
    exec i s = .next { s with
      digest := compress s.digest (packFinal bytes s.count), count := s.count + BitVec.ofNat 64 s.len.toNat,
      ovf := s.ovf || decide (2 ^ 61 ≤ s.count.toNat + s.len.toNat), fsm := .done, pending := none }

/-- R188, R183: the completion of ABSORB; `fsm` stays, and there is no automatic finalisation whatever CFG and TOTAL are.
`LEN = 0` changes nothing but BUSY as long as the bytes counted do not already overflow. -/
def Obligations.AbsorbCompressesWholeBlocks : Prop :=
  ∀ (s : State) (bytes : List Byte), s.pending = some .absorb → s.len.toNat % 64 = 0 →
    s.bufBytes s.len.toNat = some bytes →
    exec .absorb s = .next { s with
      digest := compress s.digest (wordsOfBytes bytes), count := s.count + BitVec.ofNat 64 s.len.toNat,
      ovf := s.ovf || decide (2 ^ 61 ≤ s.count.toNat + s.len.toNat), pending := none } ∧
    (s.len = 0#32 → s.count.toNat < 2 ^ 61 → exec .absorb s = .next { s with pending := none })

/-- R190: the completion of ONESHOT gives the digest of the buffer's first LEN bytes, COUNT = LEN and DONE, whatever the
state and count before; it cannot set OVF. -/
def Obligations.OneshotDigestsTheBuffer : Prop :=
  ∀ (s : State) (bytes : List Byte), s.pending = some .oneshot → s.bufBytes s.len.toNat = some bytes →
    exec .oneshot s = .next { s with
      digest := compress ⟨0x67452301#32, 0xefcdab89#32, 0x98badcfe#32, 0x10325476#32⟩ (packWhole bytes),
      count := BitVec.ofNat 64 s.len.toNat, fsm := .done, pending := none }

/-- R191: the completion of BLOCK: one `process_block` of BUF[0..15]; LEN is not read, COUNT and fsm are unchanged. -/
def Obligations.BlockCompressesTheBuffer : Prop :=
  ∀ (s : State) (X : List Word), s.pending = some .block → X.length = 16 →
    (∀ k, k < 16 → s.bufWord k = X[k]?) →
    exec .block s = .next { s with digest := processBlock s.digest X, pending := none }

/-- R182, R251: a completion fails only by the model fault for an unwritten buffer word, and exactly when one of the words
it consumes has not been written; otherwise it completes and BUSY is 0. (Log 8.) -/
def Obligations.CompletionFaultsExactlyOnUnwritten : Prop :=
  ∀ (s : State) (i : Instr), s.Inv → s.pending = some i →
    ((∃ k, k < consumedWords i s ∧ s.isWritten k = false) → exec i s = .fault .unwrittenBuffer) ∧
    ((∀ k, k < consumedWords i s → s.isWritten k = true) → ∃ t, exec i s = .next t ∧ t.busy = false)

/-- R29, R30, R31, R35 (decision D17): no command, neither at its issue nor at its completion, modifies BUF (not one byte of
it), its written flags, LEN, CFG or TOTAL; CHUNK_SIZE and the host's side stay too. -/
def Obligations.CommandsNeverModifyOperands : Prop :=
  ∀ (i : Instr) (s t : State), exec i s = .next t →
    (∀ a, lookupKey a t.mem = lookupKey a s.mem) ∧ t.mem = s.mem ∧ t.written = s.written ∧ t.len = s.len ∧
    t.useTotal = s.useTotal ∧ t.total = s.total ∧ t.chunk = s.chunk ∧ t.draws = s.draws ∧ t.prog = s.prog ∧
    t.hpc = s.hpc ∧ t.vars = s.vars ∧ t.turns = s.turns

/-- R181, R26, R27: the frame of the two phases. An issue leaves A..D, COUNT and fsm alone, and OVF unless INIT or ONESHOT is
accepted; a completion leaves ERR and ERR_CODE alone, never clears OVF, and sets it only for the four commands that
count bytes; only ONESHOT, CHUNK, FINAL and INIT move fsm, and BLOCK leaves COUNT and OVF alone.
(One exec for both phases is the model's choice: log 1.) -/
def Obligations.FrameOfIssueAndCompletion : Prop :=
  ∀ (i : Instr) (s t : State), exec i s = .next t →
    (s.busy = false →
      t.digest = s.digest ∧ t.count = s.count ∧ t.fsm = s.fsm ∧
      (i ≠ .init → i ≠ .oneshot → t.ovf = s.ovf) ∧ (t.ovf = s.ovf ∨ t.ovf = false)) ∧
    (s.busy = true →
      t.err = s.err ∧ t.errCode = s.errCode ∧ t.busy = false ∧ (s.ovf = true → t.ovf = true) ∧
      (i = .nop ∨ i = .init ∨ i = .block → t.ovf = s.ovf) ∧ (i = .nop ∨ i = .block → t.count = s.count) ∧
      (i = .nop ∨ i = .absorb ∨ i = .block → t.fsm = s.fsm))

/-! ### The whole machine -/

/-- A step runs the decoded command: the host's write of a word that decodes to `i`, with BUSY = 0, is exec of `i` with the
host moved on; the core's turn is exec of the pending command; and withFetchWord places a word so that the next step does
the first. A host turn is the host's next statement, whichever it is: a write is hostWrite and a read is hostRead of its offset,
width and value or name, whatever BUSY is; with no statement left, and on the turn of a core with nothing pending, only the
turn is used up. The statement is the one at the host's position; the turn is the first of the schedule, and past its end the
core's while BUSY = 1 and the host's otherwise.
(The two phases of exec, the schedule, the end of a program and the placing of a word are the model's: logs 1, 2, 3, 11.) -/
def Obligations.StepRunsTheDecodedCommand : Prop :=
  (∀ (s : State) (v : Word) (i : Instr),
    (s.turn = .host → s.busy = false → s.hostStmt = some (.wr 0x0000 4 v) → decode v = .ok i →
      step s = exec i s.popTurn.hostNext) ∧
    (s.turn = .core → s.pending = some i → step s = exec i s.popTurn) ∧
    (decode v = .ok i →
      step (s.withFetchWord 32 v.toNat) = exec i (s.withFetchWord 32 v.toNat).popTurn.hostNext) ∧
    s.popTurn = { s with turns := s.turns.tail } ∧ s.hostNext = { s with hpc := s.hpc + 1 }) ∧
  (∀ s : State, s.turn = .host →
    (∀ st : Stmt, s.hostStmt = some st → step s = hostStep s.popTurn) ∧
    (∀ (off n : Nat) (v : Word), s.hostStmt = some (.wr off n v) → step s = hostWrite off n v s.popTurn) ∧
    (∀ (off n : Nat) (dst : Option Nat), s.hostStmt = some (.rd off n dst) → step s = hostRead off n dst s.popTurn) ∧
    (s.hostStmt = none → step s = .next s.popTurn)) ∧
  ∀ s : State, (s.turn = .core → s.pending = none → step s = .next s.popTurn) ∧
    s.hostStmt = s.prog[s.hpc]? ∧
    (∀ (x : Turn) (r : List Turn), s.turns = x :: r → s.turn = x) ∧
    (s.turns = [] → s.turn = if s.busy then .core else .host)

/-- R95: the host's own statements: a label only moves the host on, and BNZ goes to its label exactly when the masked
variable is not zero. It is refused on a name that no read has bound, and where it is to go to a label the program does not
have. A label's position is one where that label stands, the first such, and there is one exactly when the
program has the label. A read binds its value to the name and no other name.
(That a label takes a step of its own, the first of two equal labels counts, and the two refusals, are the model's: log 10.) -/
def Obligations.HostBranchFollowsTheMask : Prop :=
  (∀ (s : State) (x l k : Nat) (mask v : Word),
    (s.hostStmt = some (.label l) → hostStep s = .next { s with hpc := s.hpc + 1 }) ∧
    (s.hostStmt = some (.bnz x mask l) → lookupKey x s.vars = some v →
      (v &&& mask = 0#32 → hostStep s = .next { s with hpc := s.hpc + 1 }) ∧
      (v &&& mask ≠ 0#32 → labelAt l s.prog = some k → hostStep s = .next { s with hpc := k }) ∧
      (v &&& mask ≠ 0#32 → labelAt l s.prog = none → hostStep s = .refused .unknownLabel)) ∧
    (s.hostStmt = some (.bnz x mask l) → lookupKey x s.vars = none → hostStep s = .refused .unboundName)) ∧
  (∀ (l k : Nat) (prog : List Stmt), labelAt l prog = some k →
    prog[k]? = some (.label l) ∧ ∀ j, j < k → prog[j]? ≠ some (.label l)) ∧
  (∀ (l : Nat) (prog : List Stmt), (labelAt l prog).isSome = true ↔ .label l ∈ prog) ∧
  ∀ (s : State) (x y : Nat) (v : Word),
    s.bindVar x v = { s with vars := (s.bindVar x v).vars } ∧ lookupKey x (s.bindVar x v).vars = some v ∧
    (y ≠ x → lookupKey y (s.bindVar x v).vars = lookupKey y s.vars)

/-- R270, R271: reset sets every element to its reset value, also while BUSY = 1, and discards the pending command; BUF's
contents are not changed and every word is unwritten.
The host's side stays. (Whose turn a step is, and that the host is not reset: the model's, logs 2 and 14.) -/
def Obligations.ResetAbandonsThePendingCommand : Prop :=
  ∀ s : State, s.turn = .reset → ∃ t, step s = .next t ∧ t.digest = iv ∧ t.count = 0#64 ∧ t.fsm = .init ∧
    t.busy = false ∧ t.pending = none ∧ t.err = false ∧ t.errCode = .none ∧ t.ovf = false ∧ t.len = 0#32 ∧
    t.useTotal = false ∧ t.total = 0#64 ∧ t.chunk = s.chunk ∧ t.mem = s.mem ∧ (∀ k, t.isWritten k = false) ∧
    t.draws = s.draws ∧ t.prog = s.prog ∧ t.hpc = s.hpc ∧ t.vars = s.vars ∧ t.turns = s.turns.tail

/-- The invariant holds after power-on reset, at every chunk size, whatever host program and schedule are placed. -/
def Obligations.InvariantHoldsAtReset : Prop :=
  State.reset.Inv ∧ ∀ (c : Fin 512) (prog : List Stmt) (turns : List Turn),
    ({ State.powerOn c with prog := prog, turns := turns } : State).Inv

/-- Every step keeps the invariant: the buffer's canonical form, its written flags, ERR with ERR_CODE, no FINALIZING between
steps, and a pending command that its acceptance checks still allow. -/
def Obligations.StepKeepsTheInvariant : Prop :=
  ∀ s t : State, s.Inv → step s = .next t → t.Inv

/-- R26, R243, R254: once ERR is 1 the recorded code stays until a reset or the acceptance of INIT or ONESHOT, which clears
ERR, ERR_CODE and OVF.
(Whose turn a step is: the model's schedule, log 2.) -/
def Obligations.FirstErrorKeptUntilRecovery : Prop :=
  ∀ s t : State, s.err = true → step s = .next t →
    (t.err = true ∧ t.errCode = s.errCode) ∨ s.turn = .reset ∨
    (s.busy = false ∧ (t.pending = some .init ∨ t.pending = some .oneshot) ∧ t.err = false ∧ t.errCode = .none ∧
      t.ovf = false)

/-- R27: OVF is sticky: only a reset or the acceptance of INIT or ONESHOT clears it; and only the completion of a command that
counts bytes sets it, when `COUNT + L >= 2^61` (R161), where CHUNK's own zero-length finalisation counts too.
(Whose turn a step is: the model's schedule, log 2.) -/
def Obligations.OverflowFlagStickyAndCaused : Prop :=
  ∀ s t : State, step s = .next t →
    (s.ovf = true → t.ovf = false → s.turn = .reset ∨
      (s.busy = false ∧ (t.pending = some .init ∨ t.pending = some .oneshot))) ∧
    (s.ovf = false → t.ovf = true → s.turn = .core ∧ (2 ^ 61 ≤ s.count.toNat + s.len.toNat) ∧
      (s.pending = some .chunk ∨ s.pending = some .absorb ∨ s.pending = some .final))

/-- R20, R22: A..D and COUNT change only at the completion of a command (not of NOP) and at reset; COUNT not at BLOCK's.
(Whose turn a step is: the model's schedule, log 2.) -/
def Obligations.OnlyCompletionsWriteDigestAndCount : Prop :=
  ∀ s t : State, step s = .next t →
    (t.digest ≠ s.digest → s.turn = .reset ∨ (s.turn = .core ∧ ∃ i, s.pending = some i ∧ i ≠ .nop ∧ t.busy = false)) ∧
    (t.count ≠ s.count → s.turn = .reset ∨
      (s.turn = .core ∧ ∃ i, s.pending = some i ∧ i ≠ .nop ∧ i ≠ .block ∧ t.busy = false))

/-- R192: once `fsm` is DONE, A..D and COUNT do not change until INIT, ONESHOT or reset.
(Whose turn a step is: the model's schedule, log 2.) -/
def Obligations.DoneDigestIsImmutable : Prop :=
  ∀ s t : State, s.Inv → s.fsm = .done → step s = .next t →
    (t.digest = s.digest ∧ t.count = s.count ∧ t.fsm = .done) ∨ s.turn = .reset ∨
    (s.turn = .core ∧ (s.pending = some .init ∨ s.pending = some .oneshot))

/-- R180: the transitions of the sequencer; every step not in the table leaves `fsm` unchanged.
(Whose turn a step is: the model's schedule, log 2.)
(That a COUNT wrapped to a TOTAL of 0 ends the message too: log 21.) -/
def Obligations.SequencerTransitions : Prop :=
  ∀ s t : State, s.Inv → step s = .next t → t.fsm ≠ s.fsm →
    (s.turn = .reset ∧ t.fsm = .init) ∨
    (s.turn = .core ∧ s.pending = some .init ∧ t.fsm = .streaming) ∨
    (s.turn = .core ∧ s.pending = some .oneshot ∧ t.fsm = .done) ∨
    (s.turn = .core ∧ s.pending = some .final ∧ s.fsm = .streaming ∧ t.fsm = .done) ∨
    (s.turn = .core ∧ s.pending = some .chunk ∧ s.fsm = .streaming ∧ t.fsm = .done ∧
      (s.len.toNat < s.chunkBytes ∨ (s.useTotal = true ∧ t.count = s.total)))

/-- R24, R25: BUSY rises only when the host's write to CMD is an accepted command other than NOP, which is then pending; and it
falls only at that command's completion or at reset.
(Whose turn a step is: the model's schedule, log 2.) -/
def Obligations.BusyFromAcceptanceToCompletion : Prop :=
  ∀ s t : State, step s = .next t →
    (s.busy = false → t.busy = true → ∃ v i, s.turn = .host ∧ s.hostStmt = some (.wr 0x0000 4 v) ∧ decode v = .ok i ∧
      i ≠ .nop ∧ acceptance i s = .accepted ∧ t.pending = some i) ∧
    (s.busy = true → t.busy = true → t.pending = s.pending) ∧
    (s.busy = true → t.busy = false → s.turn = .reset ∨ s.turn = .core)

/-- R72, R274: the operand registers and BUF cannot change while BUSY = 1, except by a reset.
(Whose turn a step is: the model's schedule, log 2.) -/
def Obligations.OperandsStableWhileBusy : Prop :=
  ∀ s t : State, s.busy = true → s.turn ≠ .reset → step s = .next t →
    t.len = s.len ∧ t.useTotal = s.useTotal ∧ t.total = s.total ∧ t.mem = s.mem ∧ t.written = s.written ∧
    t.chunk = s.chunk

/-- R182 (weak fairness, as the schedule of log 2 gives it): however many host turns stand before the core's, or before the
end of the schedule, an accepted command completes: a run that gets through those host turns finds the command still
pending, its operands and A..D, COUNT, `fsm` and OVF as they were, and its next step is the command's completion; when
that answers a next state, BUSY is 0. -/
def Obligations.AcceptedCommandCompletes : Prop :=
  ∀ (s u : State) (i : Instr) (n : Nat) (rest : List Turn), s.pending = some i →
    s.turns = List.replicate n .host ++ rest → rest = [] ∨ rest.head? = some .core →
    Sys2Proof.core.run n s = .next u →
    (u.pending = some i ∧ u.len = s.len ∧ u.useTotal = s.useTotal ∧ u.total = s.total ∧ u.mem = s.mem ∧
      u.written = s.written ∧ u.digest = s.digest ∧ u.count = s.count ∧ u.fsm = s.fsm ∧ u.ovf = s.ovf) ∧
    Sys2Proof.core.run (n + 1) s = exec i u.popTurn ∧
    ∀ t, exec i u.popTurn = .next t → t.busy = false

/-! ### The digest of a message -/

/-- R183, R184, R186 to R191, R194, R270: INIT starts the empty message, and each full CHUNK that does not end the message, or
ABSORB, extends the message taken in by the bytes of the buffer, whatever the chunk size. And every step, from every state that
meets the invariant and has taken in `msg`, keeps `msg` (a host turn, an idle core's turn), extends it by the buffer's bytes
(ABSORB, a full CHUNK), ends it with its digest (FINAL, a short CHUNK, the full CHUNK that brings COUNT to TOTAL), or leaves it:
INIT starts the empty message, ONESHOT leaves the digest of the buffer's bytes, BLOCK compresses one block that is not counted,
reset leaves the reset state.
(Whose turn a step is: the model's schedule, log 2. A COUNT that wraps to a TOTAL of 0 ends the message: log 21.) -/
def Obligations.StreamingExtendsTheMessage : Prop :=
  (∀ s : State, s.pending = some .init → ∃ t, exec .init s = .next t ∧ t.Streamed []) ∧
  (∀ (s : State) (msg bytes : List Byte) (i : Instr), s.Streamed msg → s.pending = some i →
    s.bufBytes s.len.toNat = some bytes →
    (i = .absorb ∧ s.len.toNat % 64 = 0 ∨
      i = .chunk ∧ s.len.toNat = s.chunkBytes ∧
        (s.useTotal = false ∨ s.count + BitVec.ofNat 64 s.len.toNat ≠ s.total)) →
    ∃ t, exec i s = .next t ∧ t.Streamed (msg ++ bytes)) ∧
  ∀ (s t : State) (msg : List Byte), s.Inv → s.Streamed msg → step s = .next t →
    ((s.turn = .host ∨ s.turn = .core ∧ s.pending = none) ∧ t.Streamed msg) ∨
    (s.turn = .core ∧ ∃ bytes, s.bufBytes s.len.toNat = some bytes ∧
      (s.pending = some .absorb ∨
        s.pending = some .chunk ∧ bytes.length = s.chunkBytes ∧ (s.useTotal = false ∨ t.count ≠ s.total)) ∧
      t.Streamed (msg ++ bytes)) ∨
    (s.turn = .core ∧ ∃ bytes, s.bufBytes s.len.toNat = some bytes ∧
      (s.pending = some .final ∨ s.pending = some .chunk ∧ bytes.length < s.chunkBytes ∨
        s.pending = some .chunk ∧ bytes.length = s.chunkBytes ∧ s.useTotal = true ∧ t.count = s.total) ∧
      t.Finished (msg ++ bytes)) ∨
    (s.turn = .core ∧ s.pending = some .init ∧ t.Streamed []) ∨
    (s.turn = .core ∧ s.pending = some .oneshot ∧ ∃ bytes, s.bufBytes s.len.toNat = some bytes ∧ t.Finished bytes) ∨
    (s.turn = .core ∧ s.pending = some .block ∧ ∃ X, X.length = 16 ∧ (∀ k, k < 16 → s.bufWord k = X[k]?) ∧
      t.digest = processBlock s.digest X ∧ t.count = s.count ∧ t.fsm = .streaming) ∨
    (s.turn = .reset ∧ t.digest = iv ∧ t.count = 0#64 ∧ t.fsm = .init)

/-- R184, R187, R189, R194, R195: ending a streamed message, by FINAL, by a short CHUNK, or by the full CHUNK that brings COUNT
to TOTAL, leaves the digest of the whole message: the one-pass digest of the concatenated bytes, for every chunk size and
every division into chunks. No block is duplicated or dropped.
(A byte count that reaches TOTAL modulo 2^64 by wrapping to 0: log 21.) -/
def Obligations.EndingAMessageGivesItsDigest : Prop :=
  ∀ (s : State) (msg bytes : List Byte) (i : Instr), s.Streamed msg → s.pending = some i →
    s.bufBytes s.len.toNat = some bytes →
    (i = .final ∨ (i = .chunk ∧ s.len.toNat < s.chunkBytes) ∨
      (i = .chunk ∧ s.len.toNat = s.chunkBytes ∧ s.useTotal = true ∧
        s.total = BitVec.ofNat 64 (msg.length + s.len.toNat))) →
    ∃ t, exec i s = .next t ∧ t.Finished (msg ++ bytes)

/-- R193: the digest depends only on the message bytes: two cores, in any states and of any chunk sizes, that run ONESHOT over
the same bytes end with the same digest and count. What else stands in the buffer, the upper lanes of a partial last word
included, does not matter. -/
def Obligations.OneshotDependsOnlyOnTheBytes : Prop :=
  ∀ (s u : State) (bytes : List Byte), s.pending = some .oneshot → u.pending = some .oneshot →
    s.bufBytes s.len.toNat = some bytes → u.bufBytes u.len.toNat = some bytes →
    ∃ s' u', exec .oneshot s = .next s' ∧ exec .oneshot u = .next u' ∧ s'.digest = u'.digest ∧ s'.count = u'.count ∧
      s'.fsm = u'.fsm

/-! ### The pseudo-instructions (30_encoding.md R96) -/

/-- R96: the expansions, written out: `CMD op`, POLL with its fresh label `p` and name `x`, RUN, SETLEN and SETTOTAL of a value
that fits the register (others: log 20), NOTOTAL, READDIGEST. LOADMSG is LoadMsgWordsHoldTheMessage. -/
def Obligations.PseudoInstructionsExpand : Prop :=
  (asmCmd .nop = [.wr 0x0000 4 0#32] ∧ asmCmd .init = [.wr 0x0000 4 1#32] ∧ asmCmd .chunk = [.wr 0x0000 4 2#32] ∧
    asmCmd .absorb = [.wr 0x0000 4 3#32] ∧ asmCmd .final = [.wr 0x0000 4 4#32] ∧
    asmCmd .oneshot = [.wr 0x0000 4 5#32] ∧ asmCmd .block = [.wr 0x0000 4 6#32]) ∧
  (∀ p x : Nat, asmPoll p x = [.label p, .rd 0x0004 4 (some x), .bnz x 1#32 p] ∧
    ∀ i : Instr, asmRun i p x = asmCmd i ++ asmPoll p x) ∧
  (∀ n : Nat, n < 2 ^ 32 → ∃ v : Word, v.toNat = n ∧ asmSetLen n = [.wr 0x0008 4 v]) ∧
  (∀ t : Nat, t < 2 ^ 64 → ∃ lo hi : Word, lo.toNat = t % 2 ^ 32 ∧ hi.toNat = t / 2 ^ 32 ∧
    asmSetTotal t = [.wr 0x0010 4 lo, .wr 0x0014 4 hi, .wr 0x000C 4 1#32]) ∧
  asmNoTotal = [.wr 0x000C 4 0#32] ∧
  ∀ da db dc dd : Nat, asmReadDigest da db dc dd =
    [.rd 0x0020 4 (some da), .rd 0x0024 4 (some db), .rd 0x0028 4 (some dc), .rd 0x002C 4 (some dd)]
end

