-- ==== Sys2Proof/Laws/State.lean ====
section
/-! SUPPORT. One lemma per field of State per named update, so that no later proof unfolds a record update. -/

namespace Sys2Proof.Machine

variable (s : State)

/-! ### storeBuf -/

@[simp] theorem storeBuf_chunk (k : Nat) (v : Word) : (s.storeBuf k v).chunk = s.chunk := rfl
@[simp] theorem storeBuf_digest (k : Nat) (v : Word) : (s.storeBuf k v).digest = s.digest := rfl
@[simp] theorem storeBuf_count (k : Nat) (v : Word) : (s.storeBuf k v).count = s.count := rfl
@[simp] theorem storeBuf_fsm (k : Nat) (v : Word) : (s.storeBuf k v).fsm = s.fsm := rfl
@[simp] theorem storeBuf_pending (k : Nat) (v : Word) : (s.storeBuf k v).pending = s.pending := rfl
@[simp] theorem storeBuf_err (k : Nat) (v : Word) : (s.storeBuf k v).err = s.err := rfl
@[simp] theorem storeBuf_errCode (k : Nat) (v : Word) : (s.storeBuf k v).errCode = s.errCode := rfl
@[simp] theorem storeBuf_ovf (k : Nat) (v : Word) : (s.storeBuf k v).ovf = s.ovf := rfl
@[simp] theorem storeBuf_len (k : Nat) (v : Word) : (s.storeBuf k v).len = s.len := rfl
@[simp] theorem storeBuf_useTotal (k : Nat) (v : Word) : (s.storeBuf k v).useTotal = s.useTotal := rfl
@[simp] theorem storeBuf_total (k : Nat) (v : Word) : (s.storeBuf k v).total = s.total := rfl
@[simp] theorem storeBuf_mem (k : Nat) (v : Word) : (s.storeBuf k v).mem = s.mem.storeWord (bufAddr k) v := rfl
@[simp] theorem storeBuf_written (k : Nat) (v : Word) : (s.storeBuf k v).written = insertIdx k s.written := rfl
@[simp] theorem storeBuf_draws (k : Nat) (v : Word) : (s.storeBuf k v).draws = s.draws := rfl
@[simp] theorem storeBuf_prog (k : Nat) (v : Word) : (s.storeBuf k v).prog = s.prog := rfl
@[simp] theorem storeBuf_hpc (k : Nat) (v : Word) : (s.storeBuf k v).hpc = s.hpc := rfl
@[simp] theorem storeBuf_vars (k : Nat) (v : Word) : (s.storeBuf k v).vars = s.vars := rfl
@[simp] theorem storeBuf_turns (k : Nat) (v : Word) : (s.storeBuf k v).turns = s.turns := rfl

/-! ### setLen -/

@[simp] theorem setLen_chunk (v : Word) : (s.setLen v).chunk = s.chunk := rfl
@[simp] theorem setLen_digest (v : Word) : (s.setLen v).digest = s.digest := rfl
@[simp] theorem setLen_count (v : Word) : (s.setLen v).count = s.count := rfl
@[simp] theorem setLen_fsm (v : Word) : (s.setLen v).fsm = s.fsm := rfl
@[simp] theorem setLen_pending (v : Word) : (s.setLen v).pending = s.pending := rfl
@[simp] theorem setLen_err (v : Word) : (s.setLen v).err = s.err := rfl
@[simp] theorem setLen_errCode (v : Word) : (s.setLen v).errCode = s.errCode := rfl
@[simp] theorem setLen_ovf (v : Word) : (s.setLen v).ovf = s.ovf := rfl
@[simp] theorem setLen_len (v : Word) : (s.setLen v).len = v := rfl
@[simp] theorem setLen_useTotal (v : Word) : (s.setLen v).useTotal = s.useTotal := rfl
@[simp] theorem setLen_total (v : Word) : (s.setLen v).total = s.total := rfl
@[simp] theorem setLen_mem (v : Word) : (s.setLen v).mem = s.mem := rfl
@[simp] theorem setLen_written (v : Word) : (s.setLen v).written = s.written := rfl
@[simp] theorem setLen_draws (v : Word) : (s.setLen v).draws = s.draws := rfl
@[simp] theorem setLen_prog (v : Word) : (s.setLen v).prog = s.prog := rfl
@[simp] theorem setLen_hpc (v : Word) : (s.setLen v).hpc = s.hpc := rfl
@[simp] theorem setLen_vars (v : Word) : (s.setLen v).vars = s.vars := rfl
@[simp] theorem setLen_turns (v : Word) : (s.setLen v).turns = s.turns := rfl

/-! ### setCfg -/

@[simp] theorem setCfg_chunk (v : Word) : (s.setCfg v).chunk = s.chunk := rfl
@[simp] theorem setCfg_digest (v : Word) : (s.setCfg v).digest = s.digest := rfl
@[simp] theorem setCfg_count (v : Word) : (s.setCfg v).count = s.count := rfl
@[simp] theorem setCfg_fsm (v : Word) : (s.setCfg v).fsm = s.fsm := rfl
@[simp] theorem setCfg_pending (v : Word) : (s.setCfg v).pending = s.pending := rfl
@[simp] theorem setCfg_err (v : Word) : (s.setCfg v).err = s.err := rfl
@[simp] theorem setCfg_errCode (v : Word) : (s.setCfg v).errCode = s.errCode := rfl
@[simp] theorem setCfg_ovf (v : Word) : (s.setCfg v).ovf = s.ovf := rfl
@[simp] theorem setCfg_len (v : Word) : (s.setCfg v).len = s.len := rfl
@[simp] theorem setCfg_useTotal (v : Word) : (s.setCfg v).useTotal = v.getLsbD 0 := rfl
@[simp] theorem setCfg_total (v : Word) : (s.setCfg v).total = s.total := rfl
@[simp] theorem setCfg_mem (v : Word) : (s.setCfg v).mem = s.mem := rfl
@[simp] theorem setCfg_written (v : Word) : (s.setCfg v).written = s.written := rfl
@[simp] theorem setCfg_draws (v : Word) : (s.setCfg v).draws = s.draws := rfl
@[simp] theorem setCfg_prog (v : Word) : (s.setCfg v).prog = s.prog := rfl
@[simp] theorem setCfg_hpc (v : Word) : (s.setCfg v).hpc = s.hpc := rfl
@[simp] theorem setCfg_vars (v : Word) : (s.setCfg v).vars = s.vars := rfl
@[simp] theorem setCfg_turns (v : Word) : (s.setCfg v).turns = s.turns := rfl

/-! ### setTotalLo -/

@[simp] theorem setTotalLo_chunk (v : Word) : (s.setTotalLo v).chunk = s.chunk := rfl
@[simp] theorem setTotalLo_digest (v : Word) : (s.setTotalLo v).digest = s.digest := rfl
@[simp] theorem setTotalLo_count (v : Word) : (s.setTotalLo v).count = s.count := rfl
@[simp] theorem setTotalLo_fsm (v : Word) : (s.setTotalLo v).fsm = s.fsm := rfl
@[simp] theorem setTotalLo_pending (v : Word) : (s.setTotalLo v).pending = s.pending := rfl
@[simp] theorem setTotalLo_err (v : Word) : (s.setTotalLo v).err = s.err := rfl
@[simp] theorem setTotalLo_errCode (v : Word) : (s.setTotalLo v).errCode = s.errCode := rfl
@[simp] theorem setTotalLo_ovf (v : Word) : (s.setTotalLo v).ovf = s.ovf := rfl
@[simp] theorem setTotalLo_len (v : Word) : (s.setTotalLo v).len = s.len := rfl
@[simp] theorem setTotalLo_useTotal (v : Word) : (s.setTotalLo v).useTotal = s.useTotal := rfl
@[simp] theorem setTotalLo_total (v : Word) : (s.setTotalLo v).total = s.total.extractLsb' 32 32 ++ v := rfl
@[simp] theorem setTotalLo_mem (v : Word) : (s.setTotalLo v).mem = s.mem := rfl
@[simp] theorem setTotalLo_written (v : Word) : (s.setTotalLo v).written = s.written := rfl
@[simp] theorem setTotalLo_draws (v : Word) : (s.setTotalLo v).draws = s.draws := rfl
@[simp] theorem setTotalLo_prog (v : Word) : (s.setTotalLo v).prog = s.prog := rfl
@[simp] theorem setTotalLo_hpc (v : Word) : (s.setTotalLo v).hpc = s.hpc := rfl
@[simp] theorem setTotalLo_vars (v : Word) : (s.setTotalLo v).vars = s.vars := rfl
@[simp] theorem setTotalLo_turns (v : Word) : (s.setTotalLo v).turns = s.turns := rfl

/-! ### setTotalHi -/

@[simp] theorem setTotalHi_chunk (v : Word) : (s.setTotalHi v).chunk = s.chunk := rfl
@[simp] theorem setTotalHi_digest (v : Word) : (s.setTotalHi v).digest = s.digest := rfl
@[simp] theorem setTotalHi_count (v : Word) : (s.setTotalHi v).count = s.count := rfl
@[simp] theorem setTotalHi_fsm (v : Word) : (s.setTotalHi v).fsm = s.fsm := rfl
@[simp] theorem setTotalHi_pending (v : Word) : (s.setTotalHi v).pending = s.pending := rfl
@[simp] theorem setTotalHi_err (v : Word) : (s.setTotalHi v).err = s.err := rfl
@[simp] theorem setTotalHi_errCode (v : Word) : (s.setTotalHi v).errCode = s.errCode := rfl
@[simp] theorem setTotalHi_ovf (v : Word) : (s.setTotalHi v).ovf = s.ovf := rfl
@[simp] theorem setTotalHi_len (v : Word) : (s.setTotalHi v).len = s.len := rfl
@[simp] theorem setTotalHi_useTotal (v : Word) : (s.setTotalHi v).useTotal = s.useTotal := rfl
@[simp] theorem setTotalHi_total (v : Word) : (s.setTotalHi v).total = v ++ s.total.extractLsb' 0 32 := rfl
@[simp] theorem setTotalHi_mem (v : Word) : (s.setTotalHi v).mem = s.mem := rfl
@[simp] theorem setTotalHi_written (v : Word) : (s.setTotalHi v).written = s.written := rfl
@[simp] theorem setTotalHi_draws (v : Word) : (s.setTotalHi v).draws = s.draws := rfl
@[simp] theorem setTotalHi_prog (v : Word) : (s.setTotalHi v).prog = s.prog := rfl
@[simp] theorem setTotalHi_hpc (v : Word) : (s.setTotalHi v).hpc = s.hpc := rfl
@[simp] theorem setTotalHi_vars (v : Word) : (s.setTotalHi v).vars = s.vars := rfl
@[simp] theorem setTotalHi_turns (v : Word) : (s.setTotalHi v).turns = s.turns := rfl

/-! ### clearErrors -/

@[simp] theorem clearErrors_chunk : s.clearErrors.chunk = s.chunk := rfl
@[simp] theorem clearErrors_digest : s.clearErrors.digest = s.digest := rfl
@[simp] theorem clearErrors_count : s.clearErrors.count = s.count := rfl
@[simp] theorem clearErrors_fsm : s.clearErrors.fsm = s.fsm := rfl
@[simp] theorem clearErrors_pending : s.clearErrors.pending = s.pending := rfl
@[simp] theorem clearErrors_err : s.clearErrors.err = false := rfl
@[simp] theorem clearErrors_errCode : s.clearErrors.errCode = .none := rfl
@[simp] theorem clearErrors_ovf : s.clearErrors.ovf = false := rfl
@[simp] theorem clearErrors_len : s.clearErrors.len = s.len := rfl
@[simp] theorem clearErrors_useTotal : s.clearErrors.useTotal = s.useTotal := rfl
@[simp] theorem clearErrors_total : s.clearErrors.total = s.total := rfl
@[simp] theorem clearErrors_mem : s.clearErrors.mem = s.mem := rfl
@[simp] theorem clearErrors_written : s.clearErrors.written = s.written := rfl
@[simp] theorem clearErrors_draws : s.clearErrors.draws = s.draws := rfl
@[simp] theorem clearErrors_prog : s.clearErrors.prog = s.prog := rfl
@[simp] theorem clearErrors_hpc : s.clearErrors.hpc = s.hpc := rfl
@[simp] theorem clearErrors_vars : s.clearErrors.vars = s.vars := rfl
@[simp] theorem clearErrors_turns : s.clearErrors.turns = s.turns := rfl

/-! ### beginCommand -/

@[simp] theorem beginCommand_chunk (i : Instr) : (s.beginCommand i).chunk = s.chunk := rfl
@[simp] theorem beginCommand_digest (i : Instr) : (s.beginCommand i).digest = s.digest := rfl
@[simp] theorem beginCommand_count (i : Instr) : (s.beginCommand i).count = s.count := rfl
@[simp] theorem beginCommand_fsm (i : Instr) : (s.beginCommand i).fsm = s.fsm := rfl
@[simp] theorem beginCommand_pending (i : Instr) : (s.beginCommand i).pending = some i := rfl
@[simp] theorem beginCommand_err (i : Instr) : (s.beginCommand i).err = s.err := rfl
@[simp] theorem beginCommand_errCode (i : Instr) : (s.beginCommand i).errCode = s.errCode := rfl
@[simp] theorem beginCommand_ovf (i : Instr) : (s.beginCommand i).ovf = s.ovf := rfl
@[simp] theorem beginCommand_len (i : Instr) : (s.beginCommand i).len = s.len := rfl
@[simp] theorem beginCommand_useTotal (i : Instr) : (s.beginCommand i).useTotal = s.useTotal := rfl
@[simp] theorem beginCommand_total (i : Instr) : (s.beginCommand i).total = s.total := rfl
@[simp] theorem beginCommand_mem (i : Instr) : (s.beginCommand i).mem = s.mem := rfl
@[simp] theorem beginCommand_written (i : Instr) : (s.beginCommand i).written = s.written := rfl
@[simp] theorem beginCommand_draws (i : Instr) : (s.beginCommand i).draws = s.draws := rfl
@[simp] theorem beginCommand_prog (i : Instr) : (s.beginCommand i).prog = s.prog := rfl
@[simp] theorem beginCommand_hpc (i : Instr) : (s.beginCommand i).hpc = s.hpc := rfl
@[simp] theorem beginCommand_vars (i : Instr) : (s.beginCommand i).vars = s.vars := rfl
@[simp] theorem beginCommand_turns (i : Instr) : (s.beginCommand i).turns = s.turns := rfl

/-! ### endCommand -/

@[simp] theorem endCommand_chunk : s.endCommand.chunk = s.chunk := (rfl)
@[simp] theorem endCommand_digest : s.endCommand.digest = s.digest := (rfl)
@[simp] theorem endCommand_count : s.endCommand.count = s.count := (rfl)
@[simp] theorem endCommand_fsm : s.endCommand.fsm = s.fsm := (rfl)
@[simp] theorem endCommand_pending : s.endCommand.pending = none := (rfl)
@[simp] theorem endCommand_err : s.endCommand.err = s.err := (rfl)
@[simp] theorem endCommand_errCode : s.endCommand.errCode = s.errCode := (rfl)
@[simp] theorem endCommand_ovf : s.endCommand.ovf = s.ovf := (rfl)
@[simp] theorem endCommand_len : s.endCommand.len = s.len := (rfl)
@[simp] theorem endCommand_useTotal : s.endCommand.useTotal = s.useTotal := (rfl)
@[simp] theorem endCommand_total : s.endCommand.total = s.total := (rfl)
@[simp] theorem endCommand_mem : s.endCommand.mem = s.mem := (rfl)
@[simp] theorem endCommand_written : s.endCommand.written = s.written := (rfl)
@[simp] theorem endCommand_draws : s.endCommand.draws = s.draws := (rfl)
@[simp] theorem endCommand_prog : s.endCommand.prog = s.prog := (rfl)
@[simp] theorem endCommand_hpc : s.endCommand.hpc = s.hpc := (rfl)
@[simp] theorem endCommand_vars : s.endCommand.vars = s.vars := (rfl)
@[simp] theorem endCommand_turns : s.endCommand.turns = s.turns := (rfl)

/-! ### resetCore -/

@[simp] theorem resetCore_chunk : s.resetCore.chunk = s.chunk := rfl
@[simp] theorem resetCore_digest : s.resetCore.digest = iv := rfl
@[simp] theorem resetCore_count : s.resetCore.count = 0#64 := rfl
@[simp] theorem resetCore_fsm : s.resetCore.fsm = .init := rfl
@[simp] theorem resetCore_pending : s.resetCore.pending = none := rfl
@[simp] theorem resetCore_err : s.resetCore.err = false := rfl
@[simp] theorem resetCore_errCode : s.resetCore.errCode = .none := rfl
@[simp] theorem resetCore_ovf : s.resetCore.ovf = false := rfl
@[simp] theorem resetCore_len : s.resetCore.len = 0#32 := rfl
@[simp] theorem resetCore_useTotal : s.resetCore.useTotal = false := rfl
@[simp] theorem resetCore_total : s.resetCore.total = 0#64 := rfl
@[simp] theorem resetCore_mem : s.resetCore.mem = s.mem := rfl
@[simp] theorem resetCore_written : s.resetCore.written = [] := rfl
@[simp] theorem resetCore_draws : s.resetCore.draws = s.draws := rfl
@[simp] theorem resetCore_prog : s.resetCore.prog = s.prog := rfl
@[simp] theorem resetCore_hpc : s.resetCore.hpc = s.hpc := rfl
@[simp] theorem resetCore_vars : s.resetCore.vars = s.vars := rfl
@[simp] theorem resetCore_turns : s.resetCore.turns = s.turns := rfl

/-! ### drew -/

@[simp] theorem drew_chunk : s.drew.chunk = s.chunk := rfl
@[simp] theorem drew_digest : s.drew.digest = s.digest := rfl
@[simp] theorem drew_count : s.drew.count = s.count := rfl
@[simp] theorem drew_fsm : s.drew.fsm = s.fsm := rfl
@[simp] theorem drew_pending : s.drew.pending = s.pending := rfl
@[simp] theorem drew_err : s.drew.err = s.err := rfl
@[simp] theorem drew_errCode : s.drew.errCode = s.errCode := rfl
@[simp] theorem drew_ovf : s.drew.ovf = s.ovf := rfl
@[simp] theorem drew_len : s.drew.len = s.len := rfl
@[simp] theorem drew_useTotal : s.drew.useTotal = s.useTotal := rfl
@[simp] theorem drew_total : s.drew.total = s.total := rfl
@[simp] theorem drew_mem : s.drew.mem = s.mem := rfl
@[simp] theorem drew_written : s.drew.written = s.written := rfl
@[simp] theorem drew_draws : s.drew.draws = s.draws + 1 := rfl
@[simp] theorem drew_prog : s.drew.prog = s.prog := rfl
@[simp] theorem drew_hpc : s.drew.hpc = s.hpc := rfl
@[simp] theorem drew_vars : s.drew.vars = s.vars := rfl
@[simp] theorem drew_turns : s.drew.turns = s.turns := rfl

/-! ### hostNext -/

@[simp] theorem hostNext_chunk : s.hostNext.chunk = s.chunk := rfl
@[simp] theorem hostNext_digest : s.hostNext.digest = s.digest := rfl
@[simp] theorem hostNext_count : s.hostNext.count = s.count := rfl
@[simp] theorem hostNext_fsm : s.hostNext.fsm = s.fsm := rfl
@[simp] theorem hostNext_pending : s.hostNext.pending = s.pending := rfl
@[simp] theorem hostNext_err : s.hostNext.err = s.err := rfl
@[simp] theorem hostNext_errCode : s.hostNext.errCode = s.errCode := rfl
@[simp] theorem hostNext_ovf : s.hostNext.ovf = s.ovf := rfl
@[simp] theorem hostNext_len : s.hostNext.len = s.len := rfl
@[simp] theorem hostNext_useTotal : s.hostNext.useTotal = s.useTotal := rfl
@[simp] theorem hostNext_total : s.hostNext.total = s.total := rfl
@[simp] theorem hostNext_mem : s.hostNext.mem = s.mem := rfl
@[simp] theorem hostNext_written : s.hostNext.written = s.written := rfl
@[simp] theorem hostNext_draws : s.hostNext.draws = s.draws := rfl
@[simp] theorem hostNext_prog : s.hostNext.prog = s.prog := rfl
@[simp] theorem hostNext_hpc : s.hostNext.hpc = s.hpc + 1 := rfl
@[simp] theorem hostNext_vars : s.hostNext.vars = s.vars := rfl
@[simp] theorem hostNext_turns : s.hostNext.turns = s.turns := rfl

/-! ### hostGoto -/

@[simp] theorem hostGoto_chunk (k : Nat) : (s.hostGoto k).chunk = s.chunk := rfl
@[simp] theorem hostGoto_digest (k : Nat) : (s.hostGoto k).digest = s.digest := rfl
@[simp] theorem hostGoto_count (k : Nat) : (s.hostGoto k).count = s.count := rfl
@[simp] theorem hostGoto_fsm (k : Nat) : (s.hostGoto k).fsm = s.fsm := rfl
@[simp] theorem hostGoto_pending (k : Nat) : (s.hostGoto k).pending = s.pending := rfl
@[simp] theorem hostGoto_err (k : Nat) : (s.hostGoto k).err = s.err := rfl
@[simp] theorem hostGoto_errCode (k : Nat) : (s.hostGoto k).errCode = s.errCode := rfl
@[simp] theorem hostGoto_ovf (k : Nat) : (s.hostGoto k).ovf = s.ovf := rfl
@[simp] theorem hostGoto_len (k : Nat) : (s.hostGoto k).len = s.len := rfl
@[simp] theorem hostGoto_useTotal (k : Nat) : (s.hostGoto k).useTotal = s.useTotal := rfl
@[simp] theorem hostGoto_total (k : Nat) : (s.hostGoto k).total = s.total := rfl
@[simp] theorem hostGoto_mem (k : Nat) : (s.hostGoto k).mem = s.mem := rfl
@[simp] theorem hostGoto_written (k : Nat) : (s.hostGoto k).written = s.written := rfl
@[simp] theorem hostGoto_draws (k : Nat) : (s.hostGoto k).draws = s.draws := rfl
@[simp] theorem hostGoto_prog (k : Nat) : (s.hostGoto k).prog = s.prog := rfl
@[simp] theorem hostGoto_hpc (k : Nat) : (s.hostGoto k).hpc = k := rfl
@[simp] theorem hostGoto_vars (k : Nat) : (s.hostGoto k).vars = s.vars := rfl
@[simp] theorem hostGoto_turns (k : Nat) : (s.hostGoto k).turns = s.turns := rfl

/-! ### bindVar -/

@[simp] theorem bindVar_chunk (x : Nat) (v : Word) : (s.bindVar x v).chunk = s.chunk := rfl
@[simp] theorem bindVar_digest (x : Nat) (v : Word) : (s.bindVar x v).digest = s.digest := rfl
@[simp] theorem bindVar_count (x : Nat) (v : Word) : (s.bindVar x v).count = s.count := rfl
@[simp] theorem bindVar_fsm (x : Nat) (v : Word) : (s.bindVar x v).fsm = s.fsm := rfl
@[simp] theorem bindVar_pending (x : Nat) (v : Word) : (s.bindVar x v).pending = s.pending := rfl
@[simp] theorem bindVar_err (x : Nat) (v : Word) : (s.bindVar x v).err = s.err := rfl
@[simp] theorem bindVar_errCode (x : Nat) (v : Word) : (s.bindVar x v).errCode = s.errCode := rfl
@[simp] theorem bindVar_ovf (x : Nat) (v : Word) : (s.bindVar x v).ovf = s.ovf := rfl
@[simp] theorem bindVar_len (x : Nat) (v : Word) : (s.bindVar x v).len = s.len := rfl
@[simp] theorem bindVar_useTotal (x : Nat) (v : Word) : (s.bindVar x v).useTotal = s.useTotal := rfl
@[simp] theorem bindVar_total (x : Nat) (v : Word) : (s.bindVar x v).total = s.total := rfl
@[simp] theorem bindVar_mem (x : Nat) (v : Word) : (s.bindVar x v).mem = s.mem := rfl
@[simp] theorem bindVar_written (x : Nat) (v : Word) : (s.bindVar x v).written = s.written := rfl
@[simp] theorem bindVar_draws (x : Nat) (v : Word) : (s.bindVar x v).draws = s.draws := rfl
@[simp] theorem bindVar_prog (x : Nat) (v : Word) : (s.bindVar x v).prog = s.prog := rfl
@[simp] theorem bindVar_hpc (x : Nat) (v : Word) : (s.bindVar x v).hpc = s.hpc := rfl
@[simp] theorem bindVar_vars (x : Nat) (v : Word) : (s.bindVar x v).vars = insertKey x v s.vars := rfl
@[simp] theorem bindVar_turns (x : Nat) (v : Word) : (s.bindVar x v).turns = s.turns := rfl

/-! ### bindDst -/

@[simp] theorem bindDst_some (x : Nat) (v : Word) : s.bindDst (some x) v = s.bindVar x v := rfl
@[simp] theorem bindDst_none (v : Word) : s.bindDst none v = s := rfl
@[simp] theorem bindDst_chunk (dst : Option Nat) (v : Word) : (s.bindDst dst v).chunk = s.chunk := by
  cases dst <;> rfl
@[simp] theorem bindDst_digest (dst : Option Nat) (v : Word) : (s.bindDst dst v).digest = s.digest := by
  cases dst <;> rfl
@[simp] theorem bindDst_count (dst : Option Nat) (v : Word) : (s.bindDst dst v).count = s.count := by
  cases dst <;> rfl
@[simp] theorem bindDst_fsm (dst : Option Nat) (v : Word) : (s.bindDst dst v).fsm = s.fsm := by
  cases dst <;> rfl
@[simp] theorem bindDst_pending (dst : Option Nat) (v : Word) : (s.bindDst dst v).pending = s.pending := by
  cases dst <;> rfl
@[simp] theorem bindDst_err (dst : Option Nat) (v : Word) : (s.bindDst dst v).err = s.err := by
  cases dst <;> rfl
@[simp] theorem bindDst_errCode (dst : Option Nat) (v : Word) : (s.bindDst dst v).errCode = s.errCode := by
  cases dst <;> rfl
@[simp] theorem bindDst_ovf (dst : Option Nat) (v : Word) : (s.bindDst dst v).ovf = s.ovf := by
  cases dst <;> rfl
@[simp] theorem bindDst_len (dst : Option Nat) (v : Word) : (s.bindDst dst v).len = s.len := by
  cases dst <;> rfl
@[simp] theorem bindDst_useTotal (dst : Option Nat) (v : Word) : (s.bindDst dst v).useTotal = s.useTotal := by
  cases dst <;> rfl
@[simp] theorem bindDst_total (dst : Option Nat) (v : Word) : (s.bindDst dst v).total = s.total := by
  cases dst <;> rfl
@[simp] theorem bindDst_mem (dst : Option Nat) (v : Word) : (s.bindDst dst v).mem = s.mem := by
  cases dst <;> rfl
@[simp] theorem bindDst_written (dst : Option Nat) (v : Word) : (s.bindDst dst v).written = s.written := by
  cases dst <;> rfl
@[simp] theorem bindDst_draws (dst : Option Nat) (v : Word) : (s.bindDst dst v).draws = s.draws := by
  cases dst <;> rfl
@[simp] theorem bindDst_prog (dst : Option Nat) (v : Word) : (s.bindDst dst v).prog = s.prog := by
  cases dst <;> rfl
@[simp] theorem bindDst_hpc (dst : Option Nat) (v : Word) : (s.bindDst dst v).hpc = s.hpc := by
  cases dst <;> rfl
@[simp] theorem bindDst_turns (dst : Option Nat) (v : Word) : (s.bindDst dst v).turns = s.turns := by
  cases dst <;> rfl

/-! ### popTurn -/

@[simp] theorem popTurn_chunk : s.popTurn.chunk = s.chunk := rfl
@[simp] theorem popTurn_digest : s.popTurn.digest = s.digest := rfl
@[simp] theorem popTurn_count : s.popTurn.count = s.count := rfl
@[simp] theorem popTurn_fsm : s.popTurn.fsm = s.fsm := rfl
@[simp] theorem popTurn_pending : s.popTurn.pending = s.pending := rfl
@[simp] theorem popTurn_err : s.popTurn.err = s.err := rfl
@[simp] theorem popTurn_errCode : s.popTurn.errCode = s.errCode := rfl
@[simp] theorem popTurn_ovf : s.popTurn.ovf = s.ovf := rfl
@[simp] theorem popTurn_len : s.popTurn.len = s.len := rfl
@[simp] theorem popTurn_useTotal : s.popTurn.useTotal = s.useTotal := rfl
@[simp] theorem popTurn_total : s.popTurn.total = s.total := rfl
@[simp] theorem popTurn_mem : s.popTurn.mem = s.mem := rfl
@[simp] theorem popTurn_written : s.popTurn.written = s.written := rfl
@[simp] theorem popTurn_draws : s.popTurn.draws = s.draws := rfl
@[simp] theorem popTurn_prog : s.popTurn.prog = s.prog := rfl
@[simp] theorem popTurn_hpc : s.popTurn.hpc = s.hpc := rfl
@[simp] theorem popTurn_vars : s.popTurn.vars = s.vars := rfl
@[simp] theorem popTurn_turns : s.popTurn.turns = s.turns.tail := rfl

/-! ### addBytes -/

@[simp] theorem addBytes_chunk (L : Nat) : (s.addBytes L).chunk = s.chunk := (rfl)
@[simp] theorem addBytes_digest (L : Nat) : (s.addBytes L).digest = s.digest := (rfl)
@[simp] theorem addBytes_count (L : Nat) : (s.addBytes L).count = s.count + BitVec.ofNat 64 L := (rfl)
@[simp] theorem addBytes_fsm (L : Nat) : (s.addBytes L).fsm = s.fsm := (rfl)
@[simp] theorem addBytes_pending (L : Nat) : (s.addBytes L).pending = s.pending := (rfl)
@[simp] theorem addBytes_err (L : Nat) : (s.addBytes L).err = s.err := (rfl)
@[simp] theorem addBytes_errCode (L : Nat) : (s.addBytes L).errCode = s.errCode := (rfl)
@[simp] theorem addBytes_ovf (L : Nat) : (s.addBytes L).ovf = (s.ovf || overflows s.count L) := (rfl)
@[simp] theorem addBytes_len (L : Nat) : (s.addBytes L).len = s.len := (rfl)
@[simp] theorem addBytes_useTotal (L : Nat) : (s.addBytes L).useTotal = s.useTotal := (rfl)
@[simp] theorem addBytes_total (L : Nat) : (s.addBytes L).total = s.total := (rfl)
@[simp] theorem addBytes_mem (L : Nat) : (s.addBytes L).mem = s.mem := (rfl)
@[simp] theorem addBytes_written (L : Nat) : (s.addBytes L).written = s.written := (rfl)
@[simp] theorem addBytes_draws (L : Nat) : (s.addBytes L).draws = s.draws := (rfl)
@[simp] theorem addBytes_prog (L : Nat) : (s.addBytes L).prog = s.prog := (rfl)
@[simp] theorem addBytes_hpc (L : Nat) : (s.addBytes L).hpc = s.hpc := (rfl)
@[simp] theorem addBytes_vars (L : Nat) : (s.addBytes L).vars = s.vars := (rfl)
@[simp] theorem addBytes_turns (L : Nat) : (s.addBytes L).turns = s.turns := (rfl)

/-! ### setDigest -/

@[simp] theorem setDigest_chunk (x : Digest) : (s.setDigest x).chunk = s.chunk := (rfl)
@[simp] theorem setDigest_digest (x : Digest) : (s.setDigest x).digest = x := (rfl)
@[simp] theorem setDigest_count (x : Digest) : (s.setDigest x).count = s.count := (rfl)
@[simp] theorem setDigest_fsm (x : Digest) : (s.setDigest x).fsm = s.fsm := (rfl)
@[simp] theorem setDigest_pending (x : Digest) : (s.setDigest x).pending = s.pending := (rfl)
@[simp] theorem setDigest_err (x : Digest) : (s.setDigest x).err = s.err := (rfl)
@[simp] theorem setDigest_errCode (x : Digest) : (s.setDigest x).errCode = s.errCode := (rfl)
@[simp] theorem setDigest_ovf (x : Digest) : (s.setDigest x).ovf = s.ovf := (rfl)
@[simp] theorem setDigest_len (x : Digest) : (s.setDigest x).len = s.len := (rfl)
@[simp] theorem setDigest_useTotal (x : Digest) : (s.setDigest x).useTotal = s.useTotal := (rfl)
@[simp] theorem setDigest_total (x : Digest) : (s.setDigest x).total = s.total := (rfl)
@[simp] theorem setDigest_mem (x : Digest) : (s.setDigest x).mem = s.mem := (rfl)
@[simp] theorem setDigest_written (x : Digest) : (s.setDigest x).written = s.written := (rfl)
@[simp] theorem setDigest_draws (x : Digest) : (s.setDigest x).draws = s.draws := (rfl)
@[simp] theorem setDigest_prog (x : Digest) : (s.setDigest x).prog = s.prog := (rfl)
@[simp] theorem setDigest_hpc (x : Digest) : (s.setDigest x).hpc = s.hpc := (rfl)
@[simp] theorem setDigest_vars (x : Digest) : (s.setDigest x).vars = s.vars := (rfl)
@[simp] theorem setDigest_turns (x : Digest) : (s.setDigest x).turns = s.turns := (rfl)

/-! ### setFsm -/

@[simp] theorem setFsm_chunk (f : Fsm) : (s.setFsm f).chunk = s.chunk := (rfl)
@[simp] theorem setFsm_digest (f : Fsm) : (s.setFsm f).digest = s.digest := (rfl)
@[simp] theorem setFsm_count (f : Fsm) : (s.setFsm f).count = s.count := (rfl)
@[simp] theorem setFsm_fsm (f : Fsm) : (s.setFsm f).fsm = f := (rfl)
@[simp] theorem setFsm_pending (f : Fsm) : (s.setFsm f).pending = s.pending := (rfl)
@[simp] theorem setFsm_err (f : Fsm) : (s.setFsm f).err = s.err := (rfl)
@[simp] theorem setFsm_errCode (f : Fsm) : (s.setFsm f).errCode = s.errCode := (rfl)
@[simp] theorem setFsm_ovf (f : Fsm) : (s.setFsm f).ovf = s.ovf := (rfl)
@[simp] theorem setFsm_len (f : Fsm) : (s.setFsm f).len = s.len := (rfl)
@[simp] theorem setFsm_useTotal (f : Fsm) : (s.setFsm f).useTotal = s.useTotal := (rfl)
@[simp] theorem setFsm_total (f : Fsm) : (s.setFsm f).total = s.total := (rfl)
@[simp] theorem setFsm_mem (f : Fsm) : (s.setFsm f).mem = s.mem := (rfl)
@[simp] theorem setFsm_written (f : Fsm) : (s.setFsm f).written = s.written := (rfl)
@[simp] theorem setFsm_draws (f : Fsm) : (s.setFsm f).draws = s.draws := (rfl)
@[simp] theorem setFsm_prog (f : Fsm) : (s.setFsm f).prog = s.prog := (rfl)
@[simp] theorem setFsm_hpc (f : Fsm) : (s.setFsm f).hpc = s.hpc := (rfl)
@[simp] theorem setFsm_vars (f : Fsm) : (s.setFsm f).vars = s.vars := (rfl)
@[simp] theorem setFsm_turns (f : Fsm) : (s.setFsm f).turns = s.turns := (rfl)

/-! ### loadIv -/

@[simp] theorem loadIv_chunk : s.loadIv.chunk = s.chunk := (rfl)
@[simp] theorem loadIv_digest : s.loadIv.digest = iv := (rfl)
@[simp] theorem loadIv_count : s.loadIv.count = 0#64 := (rfl)
@[simp] theorem loadIv_fsm : s.loadIv.fsm = s.fsm := (rfl)
@[simp] theorem loadIv_pending : s.loadIv.pending = s.pending := (rfl)
@[simp] theorem loadIv_err : s.loadIv.err = s.err := (rfl)
@[simp] theorem loadIv_errCode : s.loadIv.errCode = s.errCode := (rfl)
@[simp] theorem loadIv_ovf : s.loadIv.ovf = s.ovf := (rfl)
@[simp] theorem loadIv_len : s.loadIv.len = s.len := (rfl)
@[simp] theorem loadIv_useTotal : s.loadIv.useTotal = s.useTotal := (rfl)
@[simp] theorem loadIv_total : s.loadIv.total = s.total := (rfl)
@[simp] theorem loadIv_mem : s.loadIv.mem = s.mem := (rfl)
@[simp] theorem loadIv_written : s.loadIv.written = s.written := (rfl)
@[simp] theorem loadIv_draws : s.loadIv.draws = s.draws := (rfl)
@[simp] theorem loadIv_prog : s.loadIv.prog = s.prog := (rfl)
@[simp] theorem loadIv_hpc : s.loadIv.hpc = s.hpc := (rfl)
@[simp] theorem loadIv_vars : s.loadIv.vars = s.vars := (rfl)
@[simp] theorem loadIv_turns : s.loadIv.turns = s.turns := (rfl)

/-! ### raiseError -/

@[simp] theorem raiseError_chunk (e : ErrCode) : (s.raiseError e).chunk = s.chunk := by
  cases h : s.err <;> simp [State.raiseError, h]
@[simp] theorem raiseError_digest (e : ErrCode) : (s.raiseError e).digest = s.digest := by
  cases h : s.err <;> simp [State.raiseError, h]
@[simp] theorem raiseError_count (e : ErrCode) : (s.raiseError e).count = s.count := by
  cases h : s.err <;> simp [State.raiseError, h]
@[simp] theorem raiseError_fsm (e : ErrCode) : (s.raiseError e).fsm = s.fsm := by
  cases h : s.err <;> simp [State.raiseError, h]
@[simp] theorem raiseError_pending (e : ErrCode) : (s.raiseError e).pending = s.pending := by
  cases h : s.err <;> simp [State.raiseError, h]
@[simp] theorem raiseError_err (e : ErrCode) : (s.raiseError e).err = true := by
  cases h : s.err <;> simp [State.raiseError, h]
@[simp] theorem raiseError_errCode (e : ErrCode) :
    (s.raiseError e).errCode = if s.err = false then e else s.errCode := by
  cases h : s.err <;> simp [State.raiseError, h]
@[simp] theorem raiseError_ovf (e : ErrCode) : (s.raiseError e).ovf = s.ovf := by
  cases h : s.err <;> simp [State.raiseError, h]
@[simp] theorem raiseError_len (e : ErrCode) : (s.raiseError e).len = s.len := by
  cases h : s.err <;> simp [State.raiseError, h]
@[simp] theorem raiseError_useTotal (e : ErrCode) : (s.raiseError e).useTotal = s.useTotal := by
  cases h : s.err <;> simp [State.raiseError, h]
@[simp] theorem raiseError_total (e : ErrCode) : (s.raiseError e).total = s.total := by
  cases h : s.err <;> simp [State.raiseError, h]
@[simp] theorem raiseError_mem (e : ErrCode) : (s.raiseError e).mem = s.mem := by
  cases h : s.err <;> simp [State.raiseError, h]
@[simp] theorem raiseError_written (e : ErrCode) : (s.raiseError e).written = s.written := by
  cases h : s.err <;> simp [State.raiseError, h]
@[simp] theorem raiseError_draws (e : ErrCode) : (s.raiseError e).draws = s.draws := by
  cases h : s.err <;> simp [State.raiseError, h]
@[simp] theorem raiseError_prog (e : ErrCode) : (s.raiseError e).prog = s.prog := by
  cases h : s.err <;> simp [State.raiseError, h]
@[simp] theorem raiseError_hpc (e : ErrCode) : (s.raiseError e).hpc = s.hpc := by
  cases h : s.err <;> simp [State.raiseError, h]
@[simp] theorem raiseError_vars (e : ErrCode) : (s.raiseError e).vars = s.vars := by
  cases h : s.err <;> simp [State.raiseError, h]
@[simp] theorem raiseError_turns (e : ErrCode) : (s.raiseError e).turns = s.turns := by
  cases h : s.err <;> simp [State.raiseError, h]

/-! ### finalizeBytes -/

@[simp] theorem finalizeBytes_chunk (bytes : List Byte) (L : Nat) :
    (finalizeBytes bytes L s).chunk = s.chunk := (rfl)
@[simp] theorem finalizeBytes_digest (bytes : List Byte) (L : Nat) :
    (finalizeBytes bytes L s).digest = compress s.digest (packFinal bytes s.count) := (rfl)
@[simp] theorem finalizeBytes_count (bytes : List Byte) (L : Nat) :
    (finalizeBytes bytes L s).count = s.count + BitVec.ofNat 64 L := (rfl)
@[simp] theorem finalizeBytes_fsm (bytes : List Byte) (L : Nat) :
    (finalizeBytes bytes L s).fsm = .done := (rfl)
@[simp] theorem finalizeBytes_pending (bytes : List Byte) (L : Nat) :
    (finalizeBytes bytes L s).pending = s.pending := (rfl)
@[simp] theorem finalizeBytes_err (bytes : List Byte) (L : Nat) :
    (finalizeBytes bytes L s).err = s.err := (rfl)
@[simp] theorem finalizeBytes_errCode (bytes : List Byte) (L : Nat) :
    (finalizeBytes bytes L s).errCode = s.errCode := (rfl)
@[simp] theorem finalizeBytes_ovf (bytes : List Byte) (L : Nat) :
    (finalizeBytes bytes L s).ovf = (s.ovf || overflows s.count L) := (rfl)
@[simp] theorem finalizeBytes_len (bytes : List Byte) (L : Nat) :
    (finalizeBytes bytes L s).len = s.len := (rfl)
@[simp] theorem finalizeBytes_useTotal (bytes : List Byte) (L : Nat) :
    (finalizeBytes bytes L s).useTotal = s.useTotal := (rfl)
@[simp] theorem finalizeBytes_total (bytes : List Byte) (L : Nat) :
    (finalizeBytes bytes L s).total = s.total := (rfl)
@[simp] theorem finalizeBytes_mem (bytes : List Byte) (L : Nat) :
    (finalizeBytes bytes L s).mem = s.mem := (rfl)
@[simp] theorem finalizeBytes_written (bytes : List Byte) (L : Nat) :
    (finalizeBytes bytes L s).written = s.written := (rfl)
@[simp] theorem finalizeBytes_draws (bytes : List Byte) (L : Nat) :
    (finalizeBytes bytes L s).draws = s.draws := (rfl)
@[simp] theorem finalizeBytes_prog (bytes : List Byte) (L : Nat) :
    (finalizeBytes bytes L s).prog = s.prog := (rfl)
@[simp] theorem finalizeBytes_hpc (bytes : List Byte) (L : Nat) :
    (finalizeBytes bytes L s).hpc = s.hpc := (rfl)
@[simp] theorem finalizeBytes_vars (bytes : List Byte) (L : Nat) :
    (finalizeBytes bytes L s).vars = s.vars := (rfl)
@[simp] theorem finalizeBytes_turns (bytes : List Byte) (L : Nat) :
    (finalizeBytes bytes L s).turns = s.turns := (rfl)

end Sys2Proof.Machine
end

