-- ==== Sys2Proof/Laws/Memory.lean ====
section
/-! SUPPORT. The laws of the sorted lists, of the memory and of the chunk buffer: a read after a write, what a write
leaves alone, and that every memory operation keeps the canonical form. -/

namespace Sys2Proof.Machine

/-! ### Keys and values -/

theorem lookupKey_insertKey_self {α : Type} (k : Nat) (v : α) (l : List (Nat × α)) :
    lookupKey k (insertKey k v l) = some v := by
  induction l with
  | nil => simp [insertKey, lookupKey]
  | cons c r ih =>
    obtain ⟨j, u⟩ := c
    simp only [insertKey]
    split
    · simp [lookupKey]
    · split
      · simp [lookupKey]
      · next h => simp [lookupKey, ih]; omega

theorem lookupKey_insertKey_other {α : Type} {j k : Nat} (v : α) (l : List (Nat × α)) (h : j ≠ k) :
    lookupKey j (insertKey k v l) = lookupKey j l := by
  induction l with
  | nil => simp [insertKey, lookupKey, h.symm]
  | cons c r ih =>
    obtain ⟨i, u⟩ := c
    simp only [insertKey]
    split
    · simp [lookupKey, h.symm]
    · split
      · next hk => subst hk; simp [lookupKey, h.symm]
      · simp [lookupKey, ih]

theorem risingFrom_mono {α : Type} {lo lo' : Nat} (l : List (Nat × α)) (hle : lo' ≤ lo)
    (h : risingFrom lo l = true) : risingFrom lo' l = true := by
  cases l with
  | nil => rfl
  | cons c r =>
    obtain ⟨j, u⟩ := c
    simp only [risingFrom, Bool.and_eq_true, decide_eq_true_eq] at h ⊢
    exact ⟨Nat.le_trans hle h.1, h.2⟩

theorem risingFrom_insertKey {α : Type} {lo k : Nat} (v : α) (l : List (Nat × α)) (hk : lo ≤ k)
    (h : risingFrom lo l = true) : risingFrom lo (insertKey k v l) = true := by
  induction l generalizing lo with
  | nil => simp [insertKey, risingFrom, hk]
  | cons c r ih =>
    obtain ⟨j, u⟩ := c
    simp only [risingFrom, Bool.and_eq_true, decide_eq_true_eq] at h
    simp only [insertKey]
    split
    · next hlt => simp [risingFrom, hk, h.2]; omega
    · split
      · next hkj => subst hkj; simp [risingFrom, hk, h.2]
      · next h1 h2 =>
        simp only [risingFrom, Bool.and_eq_true, decide_eq_true_eq]
        exact ⟨h.1, ih (by omega) h.2⟩

theorem mem_insertKey {α : Type} {k : Nat} {v : α} {l : List (Nat × α)} {c : Nat × α}
    (h : c ∈ insertKey k v l) : c = (k, v) ∨ c ∈ l := by
  induction l with
  | nil => simpa [insertKey] using h
  | cons d r ih =>
    obtain ⟨j, u⟩ := d
    simp only [insertKey] at h
    split at h
    · simpa using h
    · split at h
      · simp only [List.mem_cons] at h ⊢; tauto
      · simp only [List.mem_cons] at h ⊢
        rcases h with h | h
        · exact .inr (.inl h)
        · rcases ih h with h | h
          · exact .inl h
          · exact .inr (.inr h)

/-! ### Sets of indexes -/

theorem mem_insertIdx (j k : Nat) (l : List Nat) : j ∈ insertIdx k l ↔ j = k ∨ j ∈ l := by
  induction l with
  | nil => simp [insertIdx]
  | cons i r ih =>
    simp only [insertIdx]
    split
    · simp
    · split
      · next h => subst h; simp
      · simp only [List.mem_cons, ih]; tauto

theorem risingIdxFrom_insertIdx {lo k : Nat} (l : List Nat) (hk : lo ≤ k)
    (h : risingIdxFrom lo l = true) : risingIdxFrom lo (insertIdx k l) = true := by
  induction l generalizing lo with
  | nil => simp [insertIdx, risingIdxFrom, hk]
  | cons j r ih =>
    simp only [risingIdxFrom, Bool.and_eq_true, decide_eq_true_eq] at h
    simp only [insertIdx]
    split
    · simp [risingIdxFrom, hk, h.2]; omega
    · split
      · next hkj => subst hkj; simp [risingIdxFrom, hk, h.2]
      · simp only [risingIdxFrom, Bool.and_eq_true, decide_eq_true_eq]
        exact ⟨h.1, ih (by omega) h.2⟩

/-! ### Memory -/

theorem wf_insertKey {m : Memory} (a : Nat) (b : Byte) (h : m.wf = true) :
    Memory.wf (insertKey a b m) = true :=
  risingFrom_insertKey b m (Nat.zero_le a) h

/-- A word store keeps the canonical form. -/
theorem wf_storeWord {m : Memory} (a : Nat) (v : Word) (h : m.wf = true) : (m.storeWord a v).wf = true :=
  wf_insertKey _ _ (wf_insertKey _ _ (wf_insertKey _ _ (wf_insertKey _ _ h)))

/-- A word store leaves every byte outside its four alone. -/
theorem lookupKey_storeWord_other {m : Memory} {a b : Nat} (v : Word) (h : b < a ∨ a + 4 ≤ b) :
    lookupKey b (m.storeWord a v) = lookupKey b m := by
  simp only [Memory.storeWord]
  rw [lookupKey_insertKey_other _ _ (by omega), lookupKey_insertKey_other _ _ (by omega),
    lookupKey_insertKey_other _ _ (by omega), lookupKey_insertKey_other _ _ (by omega)]

/-- The four bytes a word store leaves (R65). -/
theorem lookupKey_storeWord_lane (m : Memory) (a : Nat) (v : Word) {j : Nat} (hj : j < 4) :
    lookupKey (a + j) (m.storeWord a v) = some (byteLane v j) := by
  simp only [Memory.storeWord]
  obtain rfl | rfl | rfl | rfl : j = 0 ∨ j = 1 ∨ j = 2 ∨ j = 3 := by omega
  · rw [lookupKey_insertKey_other _ _ (by omega), lookupKey_insertKey_other _ _ (by omega),
      lookupKey_insertKey_other _ _ (by omega)]
    exact lookupKey_insertKey_self _ _ _
  · rw [lookupKey_insertKey_other _ _ (by omega), lookupKey_insertKey_other _ _ (by omega)]
    exact lookupKey_insertKey_self _ _ _
  · rw [lookupKey_insertKey_other _ _ (by omega)]
    exact lookupKey_insertKey_self _ _ _
  · exact lookupKey_insertKey_self _ _ _

/-- Packing the lanes of a word gives the word. -/
theorem wordOfBytes_lanes (v : Word) :
    wordOfBytes (byteLane v 0) (byteLane v 1) (byteLane v 2) (byteLane v 3) = v := by
  apply BitVec.eq_of_getLsbD_eq
  intro i hi
  simp only [wordOfBytes, byteLane, BitVec.getLsbD_append, BitVec.getLsbD_extractLsb']
  have : i < 8 ∨ (8 ≤ i ∧ i < 16) ∨ (16 ≤ i ∧ i < 24) ∨ (24 ≤ i ∧ i < 32) := by omega
  rcases this with h | h | h | h
  · simp [h]
  · have h1 : ¬ i < 8 := by omega
    have h2 : i - 8 < 8 := by omega
    simp [h1, h2]; congr 1; omega
  · have h1 : ¬ i < 8 := by omega
    have h2 : ¬ i - 8 < 8 := by omega
    have h3 : i - 8 - 8 < 8 := by omega
    simp [h1, h2, h3]; congr 1; omega
  · have h1 : ¬ i < 8 := by omega
    have h2 : ¬ i - 8 < 8 := by omega
    have h3 : ¬ i - 8 - 8 < 8 := by omega
    have h4 : i - 8 - 8 - 8 < 8 := by omega
    simp [h1, h2, h3, h4]; congr 1; omega

theorem loadWord_storeWord_self (m : Memory) (a : Nat) (v : Word) : (m.storeWord a v).loadWord a = some v := by
  have h0 := lookupKey_storeWord_lane m a v (j := 0) (by omega)
  have h1 := lookupKey_storeWord_lane m a v (j := 1) (by omega)
  have h2 := lookupKey_storeWord_lane m a v (j := 2) (by omega)
  have h3 := lookupKey_storeWord_lane m a v (j := 3) (by omega)
  simp only [Nat.add_zero] at h0
  simp only [Memory.loadWord, h0, h1, h2, h3, wordOfBytes_lanes]

theorem loadWord_storeWord_other (m : Memory) {a b : Nat} (v : Word) (h : b + 4 ≤ a ∨ a + 4 ≤ b) :
    (m.storeWord a v).loadWord b = m.loadWord b := by
  simp only [Memory.loadWord]
  rw [lookupKey_storeWord_other v (by omega), lookupKey_storeWord_other v (by omega),
    lookupKey_storeWord_other v (by omega), lookupKey_storeWord_other v (by omega)]

/-! ### The chunk buffer -/

theorem isWritten_storeBuf (s : State) (j k : Nat) (v : Word) :
    (s.storeBuf k v).isWritten j = (decide (j = k) || s.isWritten j) := by
  rw [Bool.eq_iff_iff]
  simp [State.isWritten, mem_insertIdx]

theorem bufWord_eq_some {s : State} {k : Nat} {w : Word} (h : s.bufWord k = some w) :
    s.isWritten k = true ∧ s.mem.loadWord (bufAddr k) = some w := by
  simp only [State.bufWord] at h
  split at h
  · exact ⟨‹_›, h⟩
  · cases h

/-- Reading words is reading each of them. -/
theorem bufWords_eq_some {s : State} {k n : Nat} {ws : List Word} (h : s.bufWords k n = some ws) :
    ws.length = n ∧ ∀ j, j < n → ws[j]? = s.bufWord (k + j) := by
  induction n generalizing k ws with
  | zero => simp only [State.bufWords, Option.some.injEq] at h; subst h; simp
  | succ n ih =>
    simp only [State.bufWords] at h
    split at h
    · next w r hw hr =>
      simp only [Option.some.injEq] at h
      subst h
      obtain ⟨hl, hi⟩ := ih hr
      refine ⟨by simp [hl], ?_⟩
      intro j hj
      cases j with
      | zero => simp [hw]
      | succ j =>
        simp only [List.getElem?_cons_succ, hi j (by omega)]
        congr 1; omega
    · cases h

theorem bufWords_isSome (s : State) (k n : Nat) :
    (s.bufWords k n).isSome = true ↔ ∀ j, j < n → (s.bufWord (k + j)).isSome = true := by
  induction n generalizing k with
  | zero => simp [State.bufWords]
  | succ n ih =>
    have hsplit : (s.bufWords k (n + 1)).isSome = ((s.bufWord k).isSome && (s.bufWords (k + 1) n).isSome) := by
      simp only [State.bufWords]
      cases s.bufWord k <;> cases s.bufWords (k + 1) n <;> rfl
    rw [hsplit, Bool.and_eq_true, ih]
    constructor
    · rintro ⟨h0, h⟩ j hj
      cases j with
      | zero => exact h0
      | succ j => have := h j (by omega); rwa [show k + 1 + j = k + (j + 1) by omega] at this
    · intro h
      refine ⟨h 0 (by omega), fun j hj => ?_⟩
      have := h (j + 1) (by omega)
      rwa [show k + (j + 1) = k + 1 + j by omega] at this

/-- Words that read as given are read together as given. -/
theorem bufWords_of_bufWord {s : State} {n : Nat} : ∀ {k : Nat} {X : List Word}, X.length = n →
    (∀ j, j < n → s.bufWord (k + j) = X[j]?) → s.bufWords k n = some X := by
  induction n with
  | zero => intro k X hl _; have := List.length_eq_zero_iff.mp hl; subst this; rfl
  | succ n ih =>
    intro k X hl h
    match X, hl with
    | w :: r, hl =>
      have h0 := h 0 (by omega)
      simp at h0
      have := @ih (k+1) r (by simpa using hl) (fun j hj => by
        have := h (j+1) (by omega); rw [show k + 1 + j = k + (j+1) by omega, this]; simp)
      simp [State.bufWords, h0, this]

/-- What is read of the buffer depends on its contents and its written flags alone. -/
theorem bufWord_congr {s t : State} (hm : t.mem = s.mem) (hw : t.written = s.written) (k : Nat) :
    t.bufWord k = s.bufWord k := by
  unfold State.bufWord State.isWritten
  rw [hm, hw]

theorem bufWords_congr {s t : State} {k n : Nat} (h : ∀ j, j < n → t.bufWord (k + j) = s.bufWord (k + j)) :
    t.bufWords k n = s.bufWords k n := by
  induction n generalizing k with
  | zero => rfl
  | succ n ih =>
    have h0 : t.bufWord k = s.bufWord k := h 0 (by omega)
    have h1 : t.bufWords (k + 1) n = s.bufWords (k + 1) n :=
      ih (fun j hj => by rw [show k + 1 + j = k + (j + 1) by omega]; exact h (j + 1) (by omega))
    simp only [State.bufWords, h0, h1]

theorem bufBytes_congr {s t : State} (hm : t.mem = s.mem) (hw : t.written = s.written) (L : Nat) :
    t.bufBytes L = s.bufBytes L := by
  simp only [State.bufBytes, bufWords_congr (fun j _ => bufWord_congr hm hw (0 + j))]

/-- A buffer write is read back (R64). -/
theorem bufWord_storeBuf_self (s : State) (k : Nat) (v : Word) : (s.storeBuf k v).bufWord k = some v := by
  simp only [State.bufWord, isWritten_storeBuf, decide_true, Bool.true_or, if_true, storeBuf_mem,
    loadWord_storeWord_self]

/-- A buffer write leaves every other word alone. -/
theorem bufWord_storeBuf_other (s : State) {j k : Nat} (v : Word) (h : j ≠ k) :
    (s.storeBuf k v).bufWord j = s.bufWord j := by
  simp only [State.bufWord, isWritten_storeBuf, h, decide_false, Bool.false_or, storeBuf_mem]
  rw [loadWord_storeWord_other _ _ (by simp only [bufAddr]; omega)]

theorem bufBytes_zero (s : State) : s.bufBytes 0 = some [] := by
  simp [State.bufBytes, wordsFor, State.bufWords]

theorem flatMap_bytesOfWord_length (ws : List Word) : (ws.flatMap bytesOfWord).length = 4 * ws.length := by
  induction ws with
  | nil => rfl
  | cons w r ih => simp [ih, bytesOfWord]; omega

/-- Reading `L` bytes gives `L` bytes. -/
theorem bufBytes_length {s : State} {L : Nat} {bytes : List Byte} (h : s.bufBytes L = some bytes) :
    bytes.length = L := by
  simp only [State.bufBytes] at h
  split at h
  · next ws hw =>
    simp only [Option.some.injEq] at h
    subst h
    rw [List.length_take, flatMap_bytesOfWord_length, (bufWords_eq_some hw).1]
    simp only [wordsFor]; omega
  · cases h

end Sys2Proof.Machine
end

