-- ==== Sys2Proof/Laws/Exec.lean ====
section
/-! SUPPORT. Everything a command's step can do, said once: the issue, the completion, and the bodies. -/

namespace Sys2Proof.Machine

/-! ### The verdict of the acceptance checks -/

theorem lenVerdict_accepted {i : Instr} {s : State} (h : lenVerdict i s = .accepted) :
    (readsLen i = true → s.lenBytes ≤ s.chunkBytes) ∧ (i = .absorb → s.lenBytes % 64 = 0) := by
  simp only [lenVerdict] at h
  split at h
  · cases h
  · next h1 =>
    split at h
    · cases h
    · next h2 =>
      refine ⟨fun hr => ?_, fun hi => ?_⟩
      · simp [hr] at h1; omega
      · by_contra hc; exact h2 ⟨hi, hc⟩

theorem lenVerdict_ne_dropped (i : Instr) (s : State) : lenVerdict i s ≠ .dropped := by
  simp only [lenVerdict]; split
  · simp
  · split <;> simp

/-- What an accepted command other than NOP has passed (R242). -/
theorem acceptance_accepted {i : Instr} {s : State} (h : acceptance i s = .accepted) (hi : i ≠ .nop) :
    (startsMessage i = true ∨ (s.err = false ∧ s.fsm = .streaming)) ∧ lenVerdict i s = .accepted := by
  simp only [acceptance, hi, if_false] at h
  split at h
  · next hs => exact ⟨.inl hs, h⟩
  · split at h
    · cases h
    · next he =>
      split at h
      · cases h
      · next hf => exact ⟨.inr ⟨by simpa using he, by simpa using hf⟩, h⟩

/-! ### Issue -/

/-- An issue always answers a next state: nothing, a raised error, or the command pending (R181). -/
theorem issue_cases (i : Instr) (s : State) :
    issue i s = .next s ∨ (∃ code, acceptance i s = .rejected code ∧ issue i s = .next (s.raiseError code)) ∨
    (acceptance i s = .accepted ∧ i ≠ .nop ∧ issue i s = .next (acceptEffect i s)) := by
  simp only [issue]
  split
  · next h =>
    by_cases hi : i = .nop
    · exact .inl (by simp [hi])
    · exact .inr (.inr ⟨h, hi, by simp [hi]⟩)
  · next code h => exact .inr (.inl ⟨code, h, rfl⟩)
  · exact .inl rfl

theorem issue_next {i : Instr} {s t : State} (h : issue i s = .next t) :
    t = s ∨ (∃ code, acceptance i s = .rejected code ∧ t = s.raiseError code) ∨
    (acceptance i s = .accepted ∧ i ≠ .nop ∧ t = acceptEffect i s) := by
  rcases issue_cases i s with h1 | ⟨code, hc, h1⟩ | ⟨ha, hi, h1⟩ <;> rw [h1] at h <;> cases h
  · exact .inl rfl
  · exact .inr (.inl ⟨code, hc, rfl⟩)
  · exact .inr (.inr ⟨ha, hi, rfl⟩)

/-- Accepting a command makes it pending and touches the error flags only (R181). -/
theorem acceptEffect_eq (i : Instr) (s : State) :
    acceptEffect i s = { s with pending := some i, err := s.err && !startsMessage i,
                                errCode := if startsMessage i then .none else s.errCode,
                                ovf := s.ovf && !startsMessage i } := by
  cases h : startsMessage i <;> simp [acceptEffect, h, State.beginCommand, State.clearErrors]

/-! ### Completion -/

theorem andThen_next {o : Host.Outcome State Fault Refusal} {f : State → Host.Outcome State Fault Refusal}
    {t : State} (h : andThen o f = .next t) : ∃ u, o = .next u ∧ f u = .next t := by
  cases o with
  | next u => exact ⟨u, rfl, h⟩
  | fault r => cases h
  | refused r => cases h

theorem complete_next {body : State → Host.Outcome State Fault Refusal} {s t : State}
    (h : complete body s = .next t) : ∃ u, body s = .next u ∧ t = u.endCommand := by
  obtain ⟨u, h1, h2⟩ := andThen_next h
  exact ⟨u, h1, by cases h2; rfl⟩

theorem complete_of_next {body : State → Host.Outcome State Fault Refusal} {s u : State}
    (h : body s = .next u) : complete body s = .next u.endCommand := by
  simp [complete, h, andThen]

theorem complete_of_fault {body : State → Host.Outcome State Fault Refusal} {s : State} {r : Fault}
    (h : body s = .fault r) : complete body s = .fault r := by
  simp [complete, h, andThen]

theorem busy_of_pending {s : State} {i : Instr} (h : s.pending = some i) : s.busy = true := by
  simp [State.busy, h]

theorem not_busy_iff (s : State) : s.busy = false ↔ s.pending = none := by
  simp [State.busy]

/-! ### The state after a completion, field by field -/

theorem endCommand_setDigest (s : State) (x : Digest) :
    (s.setDigest x).endCommand = { s with digest := x, pending := none } := rfl

theorem endCommand_addBytes_setDigest (s : State) (x : Digest) (L : Nat) :
    ((s.setDigest x).addBytes L).endCommand =
      { s with digest := x, ovf := s.ovf || overflows s.count L, count := s.count + BitVec.ofNat 64 L,
               pending := none } := rfl

theorem endCommand_finalizeBytes (s : State) (bytes : List Byte) (L : Nat) :
    (finalizeBytes bytes L s).endCommand =
      { s with digest := compress s.digest (packFinal bytes s.count), ovf := s.ovf || overflows s.count L,
               count := s.count + BitVec.ofNat 64 L, fsm := .done, pending := none } := rfl

/-! ### The bodies -/

/-- `absorb` on a readable whole number of blocks (R183). -/
theorem absorb_of_bytes {s : State} {L : Nat} {bytes : List Byte} (h : s.bufBytes L = some bytes) (hL : L % 64 = 0) :
    absorb L s = .next ((s.setDigest (compress s.digest (wordsOfBytes bytes))).addBytes L) := by
  simp [absorb, h, pack, packNoPadding, bufBytes_length h, hL]

theorem absorb_next {s t : State} {L : Nat} (h : absorb L s = .next t) :
    ∃ bytes, s.bufBytes L = some bytes ∧ L % 64 = 0 ∧
      t = (s.setDigest (compress s.digest (wordsOfBytes bytes))).addBytes L := by
  simp only [absorb] at h
  split at h
  · cases h
  · next bytes hb =>
    by_cases hL : L % 64 = 0
    · refine ⟨bytes, hb, hL, ?_⟩
      simp [pack, packNoPadding, bufBytes_length hb, hL] at h
      exact h.symm
    · simp [pack, packNoPadding, bufBytes_length hb, hL] at h

theorem finalize_of_bytes {s : State} {L : Nat} {bytes : List Byte} (h : s.bufBytes L = some bytes) :
    finalize L s = .next (finalizeBytes bytes L s) := by
  simp [finalize, h]

theorem finalize_next {s t : State} {L : Nat} (h : finalize L s = .next t) :
    ∃ bytes, s.bufBytes L = some bytes ∧ t = finalizeBytes bytes L s := by
  simp only [finalize] at h
  split at h
  · cases h
  · next bytes hb => exact ⟨bytes, hb, by cases h; rfl⟩

/-- The zero-length fragment consumes no buffer word (R184). -/
theorem finalize_zero (s : State) : finalize 0 s = .next (finalizeBytes [] 0 s) :=
  finalize_of_bytes (bufBytes_zero s)

/-- The completion body of a command. -/
def bodyOf : Instr → State → Host.Outcome State Fault Refusal
  | .nop => nopBody
  | .init => initBody
  | .chunk => chunkBody
  | .absorb => absorbBody
  | .final => finalBody
  | .oneshot => oneshotBody
  | .block => blockBody

@[simp] theorem bodyOf_nop (s : State) : bodyOf .nop s = nopBody s := by simp only [bodyOf]
@[simp] theorem bodyOf_init (s : State) : bodyOf .init s = initBody s := by simp only [bodyOf]
@[simp] theorem bodyOf_chunk (s : State) : bodyOf .chunk s = chunkBody s := by simp only [bodyOf]
@[simp] theorem bodyOf_absorb (s : State) : bodyOf .absorb s = absorbBody s := by simp only [bodyOf]
@[simp] theorem bodyOf_final (s : State) : bodyOf .final s = finalBody s := by simp only [bodyOf]
@[simp] theorem bodyOf_oneshot (s : State) : bodyOf .oneshot s = oneshotBody s := by simp only [bodyOf]
@[simp] theorem bodyOf_block (s : State) : bodyOf .block s = blockBody s := by simp only [bodyOf]

theorem exec_eq (i : Instr) (s : State) : exec i s = commandStep i (bodyOf i) s := by
  cases i <;> rfl

theorem exec_idle {s : State} (i : Instr) (h : s.busy = false) : exec i s = issue i s := by
  rw [exec_eq, commandStep, h]; simp

theorem exec_busy {s : State} (i : Instr) (h : s.busy = true) : exec i s = complete (bodyOf i) s := by
  rw [exec_eq, commandStep, h]; simp

/-- `t` agrees with `s` on every field but the digest registers, COUNT, `fsm` and OVF, and OVF is not cleared. -/
structure BodyFrame (s t : State) : Prop where
  chunk : t.chunk = s.chunk
  pending : t.pending = s.pending
  err : t.err = s.err
  errCode : t.errCode = s.errCode
  len : t.len = s.len
  useTotal : t.useTotal = s.useTotal
  total : t.total = s.total
  mem : t.mem = s.mem
  written : t.written = s.written
  draws : t.draws = s.draws
  prog : t.prog = s.prog
  hpc : t.hpc = s.hpc
  vars : t.vars = s.vars
  turns : t.turns = s.turns
  ovf : s.ovf = true → t.ovf = true

theorem BodyFrame.refl (s : State) : BodyFrame s s :=
  ⟨rfl, rfl, rfl, rfl, rfl, rfl, rfl, rfl, rfl, rfl, rfl, rfl, rfl, rfl, id⟩

theorem BodyFrame.trans {s t u : State} (h : BodyFrame s t) (k : BodyFrame t u) : BodyFrame s u :=
  ⟨k.chunk.trans h.chunk, k.pending.trans h.pending, k.err.trans h.err, k.errCode.trans h.errCode,
   k.len.trans h.len, k.useTotal.trans h.useTotal, k.total.trans h.total, k.mem.trans h.mem,
   k.written.trans h.written, k.draws.trans h.draws, k.prog.trans h.prog, k.hpc.trans h.hpc,
   k.vars.trans h.vars, k.turns.trans h.turns, fun ho => k.ovf (h.ovf ho)⟩

theorem addBytes_frame (s : State) (L : Nat) : BodyFrame s (s.addBytes L) :=
  ⟨rfl, rfl, rfl, rfl, rfl, rfl, rfl, rfl, rfl, rfl, rfl, rfl, rfl, rfl, fun ho => by simp [ho]⟩

theorem setDigest_frame (s : State) (x : Digest) : BodyFrame s (s.setDigest x) :=
  ⟨rfl, rfl, rfl, rfl, rfl, rfl, rfl, rfl, rfl, rfl, rfl, rfl, rfl, rfl, id⟩

theorem finalizeBytes_frame (s : State) (bytes : List Byte) (L : Nat) : BodyFrame s (finalizeBytes bytes L s) :=
  ⟨rfl, rfl, rfl, rfl, rfl, rfl, rfl, rfl, rfl, rfl, rfl, rfl, rfl, rfl, fun ho => by simp [ho]⟩

theorem absorb_frame {s t : State} {L : Nat} (h : absorb L s = .next t) : BodyFrame s t := by
  obtain ⟨bytes, -, -, rfl⟩ := absorb_next h
  exact (setDigest_frame s _).trans (addBytes_frame _ L)

theorem finalize_frame {s t : State} {L : Nat} (h : finalize L s = .next t) : BodyFrame s t := by
  obtain ⟨bytes, -, rfl⟩ := finalize_next h
  exact finalizeBytes_frame s bytes L

theorem chunkBody_next {s t : State} (h : chunkBody s = .next t) :
    (s.lenBytes = s.chunkBytes ∧ ∃ u, absorb s.lenBytes s = .next u ∧
      (reachedTotal u = true ∧ finalize 0 u = .next t ∨ reachedTotal u = false ∧ t = u)) ∨
    (s.lenBytes ≠ s.chunkBytes ∧ finalize s.lenBytes s = .next t) := by
  simp only [chunkBody] at h
  split at h
  · next hL =>
    obtain ⟨u, hu, h⟩ := andThen_next h
    refine .inl ⟨hL, u, hu, ?_⟩
    cases hr : reachedTotal u <;> simp only [hr, if_true, if_false, Bool.false_eq_true] at h
    · exact .inr ⟨rfl, by injection h with h; exact h.symm⟩
    · exact .inl ⟨rfl, h⟩
  · next hL => exact .inr ⟨hL, h⟩

theorem initBody_next {s t : State} (h : initBody s = .next t) :
    t = s.loadIv.setFsm .streaming := by
  injection h with h; exact h.symm

theorem bufBytes_loadIv (s : State) (L : Nat) : s.loadIv.bufBytes L = s.bufBytes L :=
  bufBytes_congr (s := s) (t := s.loadIv) rfl rfl L

theorem oneshotBody_next {s t : State} (h : oneshotBody s = .next t) :
    ∃ bytes, s.bufBytes s.lenBytes = some bytes ∧
      t = finalizeBytes bytes s.lenBytes s.loadIv := by
  obtain ⟨bytes, hb, ht⟩ := finalize_next h
  exact ⟨bytes, (bufBytes_loadIv s _).symm.trans hb, ht⟩

theorem oneshotBody_of_bytes {s : State} {bytes : List Byte} (h : s.bufBytes s.lenBytes = some bytes) :
    oneshotBody s = .next (finalizeBytes bytes s.lenBytes s.loadIv) :=
  finalize_of_bytes ((bufBytes_loadIv s _).trans h)

theorem blockBody_next {s t : State} (h : blockBody s = .next t) :
    ∃ X, s.bufBlock = some X ∧ t = s.setDigest (processBlock s.digest X) := by
  simp only [blockBody] at h
  split at h
  · cases h
  · next X hX => injection h with h; exact ⟨X, hX, h.symm⟩

/-- Everything a completion body can do when it completes (R185 to R191). -/
inductive BodyEffect (s : State) : Instr → State → Prop where
  | nop : BodyEffect s .nop s
  | init : BodyEffect s .init (s.loadIv.setFsm .streaming)
  | absorbed {i : Instr} {bytes : List Byte} : i = .absorb ∨ i = .chunk ∧ s.lenBytes = s.chunkBytes →
      s.bufBytes s.lenBytes = some bytes → s.lenBytes % 64 = 0 →
      (i = .chunk → (s.useTotal && s.count + BitVec.ofNat 64 s.lenBytes == s.total) = false) →
      BodyEffect s i ((s.setDigest (compress s.digest (wordsOfBytes bytes))).addBytes s.lenBytes)
  | reached {bytes : List Byte} : s.lenBytes = s.chunkBytes → s.bufBytes s.lenBytes = some bytes →
      s.lenBytes % 64 = 0 → s.useTotal = true → s.count + BitVec.ofNat 64 s.lenBytes = s.total →
      BodyEffect s .chunk
        (finalizeBytes [] 0 ((s.setDigest (compress s.digest (wordsOfBytes bytes))).addBytes s.lenBytes))
  | finalised {i : Instr} {bytes : List Byte} : i = .final ∨ i = .chunk ∧ s.lenBytes ≠ s.chunkBytes →
      s.bufBytes s.lenBytes = some bytes → BodyEffect s i (finalizeBytes bytes s.lenBytes s)
  | oneshot {bytes : List Byte} : s.bufBytes s.lenBytes = some bytes →
      BodyEffect s .oneshot (finalizeBytes bytes s.lenBytes s.loadIv)
  | block {X : List Word} : s.bufBlock = some X → BodyEffect s .block (s.setDigest (processBlock s.digest X))

theorem body_next {i : Instr} {s t : State} (h : bodyOf i s = .next t) : BodyEffect s i t := by
  cases i with
  | nop => rw [bodyOf_nop] at h; injection h with h; subst h; exact .nop
  | init => rw [bodyOf_init] at h; rw [initBody_next h]; exact .init
  | chunk =>
    rw [bodyOf_chunk] at h
    rcases chunkBody_next h with ⟨hL, u, hu, hf⟩ | ⟨hL, hf⟩
    · obtain ⟨bytes, hb, hm, rfl⟩ := absorb_next hu
      rcases hf with ⟨hr, hf⟩ | ⟨hr, rfl⟩
      · rw [finalize_zero] at hf; injection hf with hf; subst hf
        simp only [reachedTotal, addBytes_useTotal, addBytes_count, addBytes_total, setDigest_useTotal,
          setDigest_count, setDigest_total, Bool.and_eq_true, beq_iff_eq] at hr
        exact .reached hL hb hm hr.1 hr.2
      · exact .absorbed (.inr ⟨rfl, hL⟩) hb hm (fun _ => hr)
    · obtain ⟨bytes, hb, rfl⟩ := finalize_next hf
      exact .finalised (.inr ⟨rfl, hL⟩) hb
  | absorb =>
    rw [bodyOf_absorb, absorbBody] at h
    obtain ⟨bytes, hb, hm, rfl⟩ := absorb_next h
    exact .absorbed (.inl rfl) hb hm (fun hc => by cases hc)
  | final =>
    rw [bodyOf_final, finalBody] at h
    obtain ⟨bytes, hb, rfl⟩ := finalize_next h
    exact .finalised (.inl rfl) hb
  | oneshot =>
    rw [bodyOf_oneshot] at h
    obtain ⟨bytes, hb, rfl⟩ := oneshotBody_next h
    exact .oneshot hb
  | block =>
    rw [bodyOf_block] at h
    obtain ⟨X, hX, rfl⟩ := blockBody_next h
    exact .block hX

/-- What any completion body leaves alone (R27, R91). -/
theorem body_frame {i : Instr} {s t : State} (h : bodyOf i s = .next t) : BodyFrame s t := by
  cases body_next h with
  | nop => exact .refl s
  | init => exact ⟨rfl, rfl, rfl, rfl, rfl, rfl, rfl, rfl, rfl, rfl, rfl, rfl, rfl, rfl, id⟩
  | absorbed _ _ _ _ => exact (setDigest_frame s _).trans (addBytes_frame _ _)
  | reached _ _ _ _ _ =>
    exact ((setDigest_frame s _).trans (addBytes_frame _ _)).trans (finalizeBytes_frame _ _ _)
  | finalised _ _ => exact finalizeBytes_frame s _ _
  | oneshot _ =>
    exact ⟨rfl, rfl, rfl, rfl, rfl, rfl, rfl, rfl, rfl, rfl, rfl, rfl, rfl, rfl, fun ho => by simp [ho]⟩
  | block _ => exact setDigest_frame s _

/-- A command's step in one lemma: an issue (while BUSY = 0) or a completion (while BUSY = 1). -/
theorem exec_next {i : Instr} {s t : State} (h : exec i s = .next t) :
    (s.busy = false ∧ (t = s ∨ (∃ code, acceptance i s = .rejected code ∧ t = s.raiseError code) ∨
      (acceptance i s = .accepted ∧ i ≠ .nop ∧ t = acceptEffect i s))) ∨
    (s.busy = true ∧ ∃ u, bodyOf i s = .next u ∧ t = u.endCommand) := by
  cases hb : s.busy
  · rw [exec_idle i hb] at h
    exact .inl ⟨rfl, issue_next h⟩
  · rw [exec_busy i hb] at h
    exact .inr ⟨rfl, complete_next h⟩

end Sys2Proof.Machine
end

