-- ==== Sys2Proof/Laws/Step.lean ====
section
/-! SUPPORT. Everything a step can do, said once: the port's reads and writes, the host's statements, the core's turn and
reset. -/

namespace Sys2Proof.Machine

/-- `t` agrees with `s` on every register of the core and on the buffer: only the host side and the count of free values
may differ. -/
structure CoreSame (s t : State) : Prop where
  chunk : t.chunk = s.chunk
  digest : t.digest = s.digest
  count : t.count = s.count
  fsm : t.fsm = s.fsm
  pending : t.pending = s.pending
  err : t.err = s.err
  errCode : t.errCode = s.errCode
  ovf : t.ovf = s.ovf
  len : t.len = s.len
  useTotal : t.useTotal = s.useTotal
  total : t.total = s.total
  mem : t.mem = s.mem
  written : t.written = s.written

theorem CoreSame.refl (s : State) : CoreSame s s :=
  ⟨rfl, rfl, rfl, rfl, rfl, rfl, rfl, rfl, rfl, rfl, rfl, rfl, rfl⟩

theorem CoreSame.trans {s t u : State} (h : CoreSame s t) (k : CoreSame t u) : CoreSame s u :=
  ⟨k.chunk.trans h.chunk, k.digest.trans h.digest, k.count.trans h.count, k.fsm.trans h.fsm,
   k.pending.trans h.pending, k.err.trans h.err, k.errCode.trans h.errCode, k.ovf.trans h.ovf, k.len.trans h.len,
   k.useTotal.trans h.useTotal, k.total.trans h.total, k.mem.trans h.mem, k.written.trans h.written⟩

theorem popTurn_same (s : State) : CoreSame s s.popTurn :=
  ⟨rfl, rfl, rfl, rfl, rfl, rfl, rfl, rfl, rfl, rfl, rfl, rfl, rfl⟩

theorem hostNext_same (s : State) : CoreSame s s.hostNext :=
  ⟨rfl, rfl, rfl, rfl, rfl, rfl, rfl, rfl, rfl, rfl, rfl, rfl, rfl⟩

theorem hostGoto_same (s : State) (k : Nat) : CoreSame s (s.hostGoto k) :=
  ⟨rfl, rfl, rfl, rfl, rfl, rfl, rfl, rfl, rfl, rfl, rfl, rfl, rfl⟩

theorem drew_same (s : State) : CoreSame s s.drew :=
  ⟨rfl, rfl, rfl, rfl, rfl, rfl, rfl, rfl, rfl, rfl, rfl, rfl, rfl⟩

theorem bindVar_same (s : State) (x : Nat) (v : Word) : CoreSame s (s.bindVar x v) :=
  ⟨rfl, rfl, rfl, rfl, rfl, rfl, rfl, rfl, rfl, rfl, rfl, rfl, rfl⟩

theorem bindDst_same (s : State) (dst : Option Nat) (v : Word) : CoreSame s (s.bindDst dst v) := by
  cases dst with
  | none => exact .refl s
  | some x => exact bindVar_same s x v

theorem CoreSame.busy_eq {s t : State} (h : CoreSame s t) : t.busy = s.busy := by
  simp [State.busy, h.pending]

theorem CoreSame.acceptance_eq {s t : State} (h : CoreSame s t) (i : Instr) : acceptance i t = acceptance i s := by
  obtain ⟨h1, -, -, h4, -, h6, -, -, h9, -, -, -, -⟩ := h
  cases t
  simp only at h1 h4 h6 h9
  subst h1 h4 h6 h9
  rfl

/-! ### The port -/

/-- A read changes nothing but, for an unspecified value, the count of free values drawn (R68). -/
theorem readReg_state (s : State) (r : Reg) : (readReg s r).2 = s ∨ (readReg s r).2 = s.drew := by
  have hu : ∀ v, (readUnlessBusy s v).2 = s ∨ (readUnlessBusy s v).2 = s.drew := by
    intro v; simp only [readUnlessBusy]; split <;> simp
  cases r with
  | status => simp only [readReg, readStatus]; split <;> simp
  | buf k => simp only [readReg, readBuf]; split <;> simp
  | countLo => exact hu _
  | countHi => exact hu _
  | stateA => exact hu _
  | stateB => exact hu _
  | stateC => exact hu _
  | stateD => exact hu _
  | cmd => exact .inl rfl
  | len => exact .inl rfl
  | cfg => exact .inl rfl
  | totalLo => exact .inl rfl
  | totalHi => exact .inl rfl
  | chunkSize => exact .inl rfl
  | reserved => exact .inl rfl

theorem readReg_same (s : State) (r : Reg) : CoreSame s (readReg s r).2 := by
  rcases readReg_state s r with h | h <;> rw [h]
  · exact .refl s
  · exact drew_same s

/-- What a write to a register can do (R63, R64): nothing; BUSY_WRITE; a command word; or one operand register. -/
inductive WriteEffect (v : Word) (s : State) (r : Reg) : State → Prop where
  | ignored : WriteEffect v s r s
  | busyWrite : s.busy = true → WriteEffect v s r (s.raiseError .busyWrite)
  | illegal {e : DecodeError} : s.busy = false → r = .cmd → decode v = .error e →
      WriteEffect v s r (s.raiseError .illegalCmd)
  | command {i : Instr} {t : State} : s.busy = false → r = .cmd → decode v = .ok i → exec i s = .next t →
      WriteEffect v s r t
  | len : s.busy = false → WriteEffect v s r (s.setLen v)
  | cfg : s.busy = false → WriteEffect v s r (s.setCfg v)
  | totalLo : s.busy = false → WriteEffect v s r (s.setTotalLo v)
  | totalHi : s.busy = false → WriteEffect v s r (s.setTotalHi v)
  | buf (k : Nat) : s.busy = false → r = .buf k → WriteEffect v s r (s.storeBuf k v)

theorem writeReg_next {v : Word} {s t : State} {r : Reg} (h : writeReg v s r = .next t) : WriteEffect v s r t := by
  cases hb : s.busy with
  | true =>
    cases r <;> simp only [writeReg, busyGuarded, hb, Bool.and_self, Bool.false_and, if_true, if_false,
      Bool.false_eq_true, Host.Outcome.next.injEq] at h <;> subst h
    all_goals first | exact .ignored | exact .busyWrite hb
  | false =>
    cases r <;> simp only [writeReg, busyGuarded, hb, Bool.and_false, if_false,
      Bool.false_eq_true, Host.Outcome.next.injEq] at h
    case cmd =>
      simp only [issueWord] at h
      split at h
      · next i hd => exact .command hb rfl hd h
      · next e hd => simp only [Host.Outcome.next.injEq] at h; subst h; exact .illegal hb rfl hd
    case len => subst h; exact .len hb
    case cfg => subst h; exact .cfg hb
    case totalLo => subst h; exact .totalLo hb
    case totalHi => subst h; exact .totalHi hb
    case buf k => subst h; exact .buf k hb rfl
    all_goals (subst h; exact .ignored)

/-! ### The map -/

theorem regAt_cmd {cb off : Nat} (h : regAt cb off = .cmd) : off = 0 := by
  simp only [regAt] at h
  split at h
  · cases h
  · split at h <;> first | rfl | cases h

theorem regAt_buf {cb off k : Nat} (h : regAt cb off = .buf k) (ho : off % 4 = 0) :
    off = bufAddr k ∧ 4 * k < cb := by
  simp only [regAt] at h
  split at h
  · next hw =>
    simp only [Reg.buf.injEq] at h
    simp only [bufAddr]; omega
  · split at h <;> cases h

theorem regAt_buf_of {cb k : Nat} (h : 4 * k < cb) : regAt cb (0x8000 + 4 * k) = .buf k := by
  simp only [regAt]
  rw [if_pos (by omega)]
  congr 1; omega

theorem chunkBytes_le (s : State) : s.chunkBytes ≤ 32768 ∧ 64 ≤ s.chunkBytes ∧ s.chunkBytes % 64 = 0 := by
  have := s.chunk.isLt
  simp only [State.chunkBytes]; omega

/-! ### The host -/

/-- What one step of the host can do: no register of the core changes, or it is a write whose register effect is one of
`WriteEffect`. -/
theorem hostStep_next {s t : State} (h : hostStep s = .next t) :
    CoreSame s t ∨ ∃ off v, s.hostStmt = some (.wr off 4 v) ∧ off % 4 = 0 ∧ off < 0x10000 ∧
      WriteEffect v s.hostNext (regAt s.chunkBytes off) t := by
  simp only [hostStep] at h
  split at h
  · injection h with h; subst h; exact .inl (.refl s)
  · next off n v hs =>
    simp only [hostWrite] at h
    split at h
    · next hp =>
      simp only [portHas, Bool.and_eq_true, beq_iff_eq, decide_eq_true_eq] at hp
      obtain ⟨⟨rfl, h4⟩, hlt⟩ := hp
      exact .inr ⟨off, v, hs, h4, hlt, writeReg_next h⟩
    · cases h
  · next off n dst hs =>
    simp only [hostRead] at h
    split at h
    · left
      have hr : CoreSame s (readReg s.hostNext (regAt s.chunkBytes off)).2 :=
        (hostNext_same s).trans (readReg_same _ _)
      injection h with h; subst h
      exact hr.trans (bindDst_same _ _ _)
    · cases h
  · injection h with h; subst h; exact .inl (hostNext_same s)
  · next x mask l hs =>
    simp only [hostBranch] at h
    left
    split at h
    · cases h
    · split at h
      · split at h
        · injection h with h; subst h; exact hostGoto_same s _
        · cases h
      · injection h with h; subst h; exact hostNext_same s

/-- The same at the core: no register of the core changes; an error is raised; a command is accepted; or, while BUSY = 0,
an operand register or a buffer word is written, and no other register of the core changes. -/
inductive HostTurn (s t : State) : Prop where
  | same : CoreSame s t → HostTurn s t
  | raised (r : State) (c : ErrCode) : CoreSame s r → t = r.raiseError c → HostTurn s t
  | accepted (r : State) (v : Word) (i : Instr) : s.busy = false → s.hostStmt = some (.wr 0 4 v) →
      decode v = .ok i → CoreSame s r → acceptance i s = .accepted → i ≠ .nop → t = acceptEffect i r → HostTurn s t
  | operand : s.busy = false → t.chunk = s.chunk → t.digest = s.digest → t.count = s.count → t.fsm = s.fsm →
      t.pending = none → t.err = s.err → t.errCode = s.errCode → t.ovf = s.ovf → HostTurn s t

theorem host_turn {s t : State} (hh : hostStep s.popTurn = .next t) : HostTurn s t := by
  rcases hostStep_next hh with hc | ⟨off, v, hs, h4, hlt, he⟩
  · exact .same ((popTurn_same s).trans hc)
  · have hc : CoreSame s s.popTurn.hostNext := (popTurn_same s).trans (hostNext_same _)
    generalize s.popTurn.hostNext = r at hc he
    cases he with
    | ignored => exact .same hc
    | busyWrite _ => exact .raised _ _ hc rfl
    | illegal _ _ _ => exact .raised _ _ hc rfl
    | command hb hr hd he =>
      rcases exec_next he with ⟨-, rfl | ⟨c, -, rfl⟩ | ⟨ha, hne, rfl⟩⟩ | ⟨hb2, -⟩
      · exact .same hc
      · exact .raised _ _ hc rfl
      · have := regAt_cmd hr
        subst this
        exact .accepted r v _ (hc.busy_eq ▸ hb) hs hd hc ((hc.acceptance_eq _) ▸ ha) hne rfl
      · rw [hb] at hb2; cases hb2
    | len h =>
      exact .operand (hc.busy_eq ▸ h) hc.chunk hc.digest hc.count hc.fsm ((not_busy_iff _).mp h) hc.err hc.errCode hc.ovf
    | cfg h =>
      exact .operand (hc.busy_eq ▸ h) hc.chunk hc.digest hc.count hc.fsm ((not_busy_iff _).mp h) hc.err hc.errCode hc.ovf
    | totalLo h =>
      exact .operand (hc.busy_eq ▸ h) hc.chunk hc.digest hc.count hc.fsm ((not_busy_iff _).mp h) hc.err hc.errCode hc.ovf
    | totalHi h =>
      exact .operand (hc.busy_eq ▸ h) hc.chunk hc.digest hc.count hc.fsm ((not_busy_iff _).mp h) hc.err hc.errCode hc.ovf
    | buf k h _ =>
      exact .operand (hc.busy_eq ▸ h) hc.chunk hc.digest hc.count hc.fsm ((not_busy_iff _).mp h) hc.err hc.errCode hc.ovf

/-- The host's step leaves the schedule alone. -/
theorem hostStep_turns {s t : State} (h : hostStep s = .next t) : t.turns = s.turns := by
  simp only [hostStep] at h
  split at h
  · injection h with h; subst h; rfl
  · next off n v hs =>
    simp only [hostWrite] at h
    split at h
    · cases writeReg_next h with
      | ignored => rfl
      | busyWrite => simp
      | illegal => simp
      | command _ _ _ he =>
        rcases exec_next he with ⟨-, rfl | ⟨c, -, rfl⟩ | ⟨-, -, rfl⟩⟩ | ⟨-, u, hu, rfl⟩
        · rfl
        · simp
        · rw [acceptEffect_eq]; rfl
        · simp [(body_frame hu).turns]
      | len => rfl
      | cfg => rfl
      | totalLo => rfl
      | totalHi => rfl
      | buf => rfl
    · cases h
  · simp only [hostRead] at h
    split at h
    · next off n dst _ _ =>
      have hr : (readReg s.hostNext (regAt s.chunkBytes off)).2.turns = s.turns := by
        rcases readReg_state s.hostNext (regAt s.chunkBytes off) with e | e <;> rw [e] <;> rfl
      injection h with h; subst h
      exact (bindDst_turns _ _ _).trans hr
    · cases h
  · injection h with h; subst h; rfl
  · simp only [hostBranch] at h
    split at h
    · cases h
    · split at h
      · split at h
        · injection h with h; subst h; rfl
        · cases h
      · injection h with h; subst h; rfl

/-- The statement that is placed is found where it was placed. -/
theorem setStmt_get (x : Stmt) (k : Nat) (p : List Stmt) : (setStmt x k p)[k]? = some x := by
  induction k generalizing p with
  | zero => cases p <;> simp [setStmt]
  | succ k ih => cases p <;> simp [setStmt, ih]

/-! ### The step -/

theorem step_host {s : State} (h : s.turn = .host) : step s = hostStep s.popTurn := by
  simp only [step, systemStep, h]

theorem step_core {s : State} (h : s.turn = .core) : step s = coreStep s.popTurn := by
  simp only [step, systemStep, h]

theorem step_reset {s : State} (h : s.turn = .reset) : step s = .next s.popTurn.resetCore := by
  simp only [step, systemStep, h]

/-- Everything a step can do. -/
theorem step_next {s t : State} (h : step s = .next t) :
    (s.turn = .host ∧ hostStep s.popTurn = .next t) ∨
    (s.turn = .core ∧ s.pending = none ∧ t = s.popTurn) ∨
    (s.turn = .core ∧ ∃ i u, s.pending = some i ∧ bodyOf i s.popTurn = .next u ∧ t = u.endCommand) ∨
    (s.turn = .reset ∧ t = s.popTurn.resetCore) := by
  cases hT : s.turn with
  | host => rw [step_host hT] at h; exact .inl ⟨rfl, h⟩
  | core =>
    rw [step_core hT] at h
    simp only [coreStep, popTurn_pending] at h
    split at h
    · next i hp =>
      rw [exec_busy i (by simp [State.busy, hp])] at h
      obtain ⟨u, hu, ht⟩ := complete_next h
      exact .inr (.inr (.inl ⟨rfl, i, u, hp, hu, ht⟩))
    · next hp => injection h with h; exact .inr (.inl ⟨rfl, hp, h.symm⟩)
  | reset => rw [step_reset hT] at h; injection h with h; exact .inr (.inr (.inr ⟨rfl, h.symm⟩))

end Sys2Proof.Machine
end

