-- ==== Sys2Proof/Laws/Invariant.lean ====
section
/-! SUPPORT. How the single updates act on the clauses of the invariant `State.Inv`. -/

namespace Sys2Proof.Machine

/-! ### What each clause depends on -/

theorem chunkBytes_congr {s t : State} (hc : t.chunk = s.chunk) : t.chunkBytes = s.chunkBytes := by
  simp only [State.chunkBytes, hc]

theorem memOk_congr {s t : State} (hc : t.chunk = s.chunk) (hm : t.mem = s.mem) : t.memOk = s.memOk := by
  simp only [State.memOk, chunkBytes_congr hc, hm]

theorem writtenOk_congr {s t : State} (hc : t.chunk = s.chunk) (hm : t.mem = s.mem) (hw : t.written = s.written) :
    t.writtenOk = s.writtenOk := by
  simp only [State.writtenOk, chunkBytes_congr hc, hm, hw]

theorem errOk_congr {s t : State} (he : t.err = s.err) (hc : t.errCode = s.errCode) : t.errOk = s.errOk := by
  simp only [State.errOk, he, hc]

theorem fsmOk_congr {s t : State} (hf : t.fsm = s.fsm) : t.fsmOk = s.fsmOk := by
  simp only [State.fsmOk, hf]

theorem pendingOk_congr {s t : State} (hc : t.chunk = s.chunk) (hp : t.pending = s.pending) (hf : t.fsm = s.fsm)
    (hl : t.len = s.len) : t.pendingOk = s.pendingOk := by
  cases t
  simp only at hc hp hf hl
  subst hc hp hf hl
  rfl

theorem varsOk_congr {s t : State} (hv : t.vars = s.vars) : t.varsOk = s.varsOk := by
  simp only [State.varsOk, hv]

/-! ### The chunk buffer -/

/-- A write of a buffer word that the chunk has keeps the buffer's form and its window (R35, R61). -/
theorem memOk_storeBuf {s : State} {k : Nat} (v : Word) (hk : 4 * k < s.chunkBytes) (h : s.memOk = true) :
    (s.storeBuf k v).memOk = true := by
  simp only [State.memOk, Bool.and_eq_true, List.all_eq_true, decide_eq_true_eq] at h ⊢
  refine ⟨wf_storeWord _ _ h.1, fun c hc => ?_⟩
  have hcb : (s.storeBuf k v).chunkBytes = s.chunkBytes := rfl
  have h4 := (chunkBytes_le s).2.2
  rw [hcb]
  rw [storeBuf_mem] at hc
  simp only [Memory.storeWord] at hc
  rcases mem_insertKey hc with rfl | hc
  · simp only [bufAddr]; omega
  rcases mem_insertKey hc with rfl | hc
  · simp only [bufAddr]; omega
  rcases mem_insertKey hc with rfl | hc
  · simp only [bufAddr]; omega
  rcases mem_insertKey hc with rfl | hc
  · simp only [bufAddr]; omega
  exact h.2 c hc

/-- It also keeps the written flags in order, each of a word the buffer has and whose contents are there (R35). -/
theorem writtenOk_storeBuf {s : State} {k : Nat} (v : Word) (hk : 4 * k < s.chunkBytes) (h : s.writtenOk = true) :
    (s.storeBuf k v).writtenOk = true := by
  simp only [State.writtenOk, Bool.and_eq_true, List.all_eq_true, decide_eq_true_eq] at h ⊢
  refine ⟨risingIdxFrom_insertIdx _ (Nat.zero_le _) h.1, fun j hj => ?_⟩
  have hcb : (s.storeBuf k v).chunkBytes = s.chunkBytes := rfl
  rw [hcb, storeBuf_mem]
  rw [storeBuf_written, mem_insertIdx] at hj
  by_cases hjk : j = k
  · subst hjk
    exact ⟨hk, by rw [loadWord_storeWord_self]; rfl⟩
  · rcases hj with hj | hj
    · exact absurd hj hjk
    · refine ⟨(h.2 j hj).1, ?_⟩
      rw [loadWord_storeWord_other _ _ (by simp only [bufAddr]; omega)]
      exact (h.2 j hj).2

/-- With the written flags in order, a word has a value exactly when it is flagged (R35). -/
theorem bufWord_isSome_eq {s : State} (h : s.writtenOk = true) (k : Nat) : (s.bufWord k).isSome = s.isWritten k := by
  cases hw : s.isWritten k
  · simp [State.bufWord, hw]
  · simp only [State.writtenOk, Bool.and_eq_true, List.all_eq_true] at h
    have h2 := h.2 k (by simpa [State.isWritten] using hw)
    simp only [State.bufWord, hw, if_true]
    exact h2.2

/-! ### The error flags -/

theorem errOk_raiseError {s : State} {code : ErrCode} (hc : code ≠ .none) (h : s.errOk = true) :
    (s.raiseError code).errOk = true := by
  cases he : s.err
  · simp [State.raiseError, he, State.errOk, hc]
  · simpa [State.raiseError, he] using h

theorem acceptance_ne_rejected_none (i : Instr) (s : State) : acceptance i s ≠ .rejected .none := by
  have hl : lenVerdict i s ≠ .rejected .none := by
    simp only [lenVerdict]; split
    · simp
    · split <;> simp
  simp only [acceptance]
  split
  · simp
  · split
    · exact hl
    · split
      · simp
      · split
        · simp
        · exact hl

/-! ### The pending command -/

/-- An accepted command meets the clause on the pending command from then on (R181). -/
theorem pendingOk_acceptEffect {i : Instr} {s : State} (ha : acceptance i s = .accepted) (hi : i ≠ .nop) :
    (acceptEffect i s).pendingOk = true := by
  obtain ⟨hs, hl⟩ := acceptance_accepted ha hi
  have hl2 : lenVerdict i (acceptEffect i s) = lenVerdict i s := by rw [acceptEffect_eq]; rfl
  have hp : (acceptEffect i s).pending = some i := by rw [acceptEffect_eq]
  have hf : (acceptEffect i s).fsm = s.fsm := by rw [acceptEffect_eq]
  simp only [State.pendingOk, hp, hl2, hl, hf, Bool.and_eq_true, bne_iff_ne, beq_iff_eq, Bool.or_eq_true, ne_eq]
  exact ⟨⟨hi, hs.imp id (·.2)⟩, trivial⟩

theorem pendingOk_of_none {s : State} (h : s.pending = none) : s.pendingOk = true := by
  simp only [State.pendingOk, h]

/-! ### The host's variables -/

theorem varsOk_bindVar {s : State} (x : Nat) (v : Word) (h : s.varsOk = true) : (s.bindVar x v).varsOk = true :=
  risingFrom_insertKey v _ (Nat.zero_le _) h

theorem varsOk_bindDst {s : State} (dst : Option Nat) (v : Word) (h : s.varsOk = true) :
    (s.bindDst dst v).varsOk = true := by
  cases dst with
  | none => exact h
  | some x => exact varsOk_bindVar x v h

/-- The host's step keeps its variables in canonical form. -/
theorem hostStep_vars {s t : State} (h : hostStep s = .next t) (hv : s.varsOk = true) : t.varsOk = true := by
  simp only [hostStep] at h
  split at h
  · injection h with h; subst h; exact hv
  · next off n v hs =>
    simp only [hostWrite] at h
    split at h
    · have hv' : s.hostNext.varsOk = true := hv
      cases writeReg_next h with
      | ignored => exact hv
      | busyWrite => simpa [State.varsOk] using hv
      | illegal => simpa [State.varsOk] using hv
      | command _ _ _ he =>
        rcases exec_next he with ⟨-, rfl | ⟨c, -, rfl⟩ | ⟨-, -, rfl⟩⟩ | ⟨-, u, hu, rfl⟩
        · exact hv
        · simpa [State.varsOk] using hv
        · rw [acceptEffect_eq]; simpa [State.varsOk] using hv
        · have := (body_frame hu).vars
          simp [State.varsOk, this]; exact hv
      | len => exact hv
      | cfg => exact hv
      | totalLo => exact hv
      | totalHi => exact hv
      | buf => exact hv
    · cases h
  · simp only [hostRead] at h
    split at h
    · next off n dst _ _ =>
      have hr : (readReg s.hostNext (regAt s.chunkBytes off)).2.varsOk = true := by
        rcases readReg_state s.hostNext (regAt s.chunkBytes off) with e | e <;> rw [e] <;> exact hv
      injection h with h; subst h
      exact varsOk_bindDst _ _ hr
    · cases h
  · injection h with h; subst h; exact hv
  · simp only [hostBranch] at h
    split at h
    · cases h
    · split at h
      · split at h
        · injection h with h; subst h; exact hv
        · cases h
      · injection h with h; subst h; exact hv

end Sys2Proof.Machine
end

