-- ==== Sys2Proof/Laws/Packer.lean ====
section
/-! SUPPORT. The laws of packing bytes into words and back, and of the padded sequence. -/

namespace Sys2Proof.Machine

/-- Lane `j` of a packed word is its byte `j`. -/
theorem byteLane_wordOfBytes (b0 b1 b2 b3 : Byte) :
    byteLane (wordOfBytes b0 b1 b2 b3) 0 = b0 ∧ byteLane (wordOfBytes b0 b1 b2 b3) 1 = b1 ∧
    byteLane (wordOfBytes b0 b1 b2 b3) 2 = b2 ∧ byteLane (wordOfBytes b0 b1 b2 b3) 3 = b3 := by
  refine ⟨?_, ?_, ?_, ?_⟩ <;>
  · apply BitVec.eq_of_getLsbD_eq
    intro i hi
    simp only [byteLane, wordOfBytes, BitVec.getLsbD_extractLsb', BitVec.getLsbD_append, hi, decide_true,
      Bool.true_and]
    repeat' split
    all_goals first | omega | (congr 1; omega)

theorem bytesOfWord_wordOfBytes (b0 b1 b2 b3 : Byte) :
    bytesOfWord (wordOfBytes b0 b1 b2 b3) = [b0, b1, b2, b3] := by
  obtain ⟨h0, h1, h2, h3⟩ := byteLane_wordOfBytes b0 b1 b2 b3
  simp [bytesOfWord, h0, h1, h2, h3]

theorem wordsOfBytes_length (bs : List Byte) : (wordsOfBytes bs).length = bs.length / 4 := by
  induction bs using wordsOfBytes.induct with
  | case1 b0 b1 b2 b3 r ih => simp only [wordsOfBytes, List.length_cons, ih]; omega
  | case2 bs h =>
    match bs, h with
    | [], _ => rfl
    | [_], _ => simp [wordsOfBytes]
    | [_, _], _ => simp [wordsOfBytes]
    | [_, _, _], _ => simp [wordsOfBytes]
    | b0 :: b1 :: b2 :: b3 :: r, h => exact absurd rfl (h b0 b1 b2 b3 r)

theorem wordsOfBytes_append {a : List Byte} (b : List Byte) (h : a.length % 4 = 0) :
    wordsOfBytes (a ++ b) = wordsOfBytes a ++ wordsOfBytes b := by
  induction a using wordsOfBytes.induct with
  | case1 b0 b1 b2 b3 r ih =>
    simp only [List.length_cons] at h
    simp only [List.cons_append, wordsOfBytes, ih (by omega)]
  | case2 a hn =>
    match a, hn, h with
    | [], _, _ => rfl
    | [_], _, h => simp at h
    | [_, _], _, h => simp at h
    | [_, _, _], _, h => simp at h
    | b0 :: b1 :: b2 :: b3 :: r, hn, _ => exact absurd rfl (hn b0 b1 b2 b3 r)

/-- Unpacking the packed words gives the bytes. -/
theorem flatMap_wordsOfBytes {bs : List Byte} (h : bs.length % 4 = 0) :
    (wordsOfBytes bs).flatMap bytesOfWord = bs := by
  induction bs using wordsOfBytes.induct with
  | case1 b0 b1 b2 b3 r ih =>
    simp only [List.length_cons] at h
    simp only [wordsOfBytes, List.flatMap_cons, bytesOfWord_wordOfBytes, ih (by omega)]
    rfl
  | case2 a hn =>
    match a, hn, h with
    | [], _, _ => rfl
    | [_], _, h => simp at h
    | [_, _], _, h => simp at h
    | [_, _, _], _, h => simp at h
    | b0 :: b1 :: b2 :: b3 :: r, hn, _ => exact absurd rfl (hn b0 b1 b2 b3 r)

/-- Packing the unpacked bytes gives the words. -/
theorem wordsOfBytes_flatMap (ws : List Word) : wordsOfBytes (ws.flatMap bytesOfWord) = ws := by
  induction ws with
  | nil => rfl
  | cons w r ih =>
    simp only [List.flatMap_cons, bytesOfWord, List.cons_append, List.nil_append, wordsOfBytes,
      wordOfBytes_lanes]
    exact congrArg _ ih

/-- Byte `4w + j` of unpacked words is lane `j` of word `w`. -/
theorem flatMap_bytesOfWord_get (ws : List Word) {w j : Nat} (hj : j < 4) :
    (ws.flatMap bytesOfWord)[4 * w + j]? = (ws[w]?).map (fun v => byteLane v j) := by
  induction ws generalizing w with
  | nil => simp
  | cons v r ih =>
    simp only [List.flatMap_cons]
    cases w with
    | zero =>
      rw [List.getElem?_append_left (by simp [bytesOfWord]; omega)]
      obtain rfl | rfl | rfl | rfl : j = 0 ∨ j = 1 ∨ j = 2 ∨ j = 3 := by omega
      all_goals simp [bytesOfWord]
    | succ w =>
      rw [List.getElem?_append_right (by simp [bytesOfWord]; omega)]
      have : 4 * (w + 1) + j - (bytesOfWord v).length = 4 * w + j := by simp [bytesOfWord]; omega
      rw [this, ih]; simp

theorem bytesOfDWord_length (v : DWord) : (bytesOfDWord v).length = 8 := rfl

/-- The padded sequence has room for the bytes, the marker and the length field. -/
theorem paddedWords_room (L : Nat) : L + 9 ≤ 4 * paddedWords L ∧ paddedWords L % 16 = 0 ∧
    paddedWords L = 16 * ((L + 8) / 64 + 1) := by
  simp only [paddedWords, paddedBase]; omega

theorem paddedBytes_length (bytes : List Byte) (prior : DWord) :
    (paddedBytes bytes prior).length = 4 * paddedWords bytes.length := by
  have := paddedWords_room bytes.length
  simp only [paddedBytes, List.length_append, List.length_cons, List.length_nil, List.length_replicate,
    bytesOfDWord_length]
  omega

end Sys2Proof.Machine
end

