-- ==== Sys2Proof/Laws/PerInstr.lean ====
section
/-! SUPPORT. Statements made per command: its word in the fields of spec/30_encoding.md R90. -/

/-- The word of a well-formed command has OP its opcode and RSVD zero, and decodes to it (R90, R92). -/
def Sys2Proof.Laws.Encoding.Statement (i : Sys2Proof.Instr) : Prop :=
  i.wf = true ∧ Sys2Proof.opField (Sys2Proof.encode i) = Sys2Proof.opcode i ∧
    Sys2Proof.rsvdField (Sys2Proof.encode i) = 0#28 ∧
    Sys2Proof.decodeTableWord 32 (Sys2Proof.encode i).toNat = some i

namespace Sys2Proof.Laws.Encoding

theorem nop : Statement .nop := by unfold Statement; decide
theorem init : Statement .init := by unfold Statement; decide
theorem chunk : Statement .chunk := by unfold Statement; decide
theorem absorb : Statement .absorb := by unfold Statement; decide
theorem final : Statement .final := by unfold Statement; decide
theorem oneshot : Statement .oneshot := by unfold Statement; decide
theorem block : Statement .block := by unfold Statement; decide

end Sys2Proof.Laws.Encoding
end

