-- ==== Sys2Proof/Laws/Run.lean ====
section
/-! SUPPORT. Runs of several steps, one step at a time. -/

namespace Sys2Proof.Machine

theorem core_run_zero (M : Host.Core) (s : M.State) : M.run 0 s = .next s := by
  simp only [Host.Core.run]

/-- A run of `n + 1` steps completes exactly when its first step does and the rest does. -/
theorem core_run_succ (M : Host.Core) (n : Nat) (s t : M.State) :
    M.run (n + 1) s = .next t ↔ ∃ u, M.step s = .next u ∧ M.run n u = .next t := by
  simp only [Host.Core.run]
  cases M.step s with
  | next u => simp
  | fault r => simp
  | refused r => simp

/-- The same for this machine, in terms of `step`. -/
theorem run_succ (n : Nat) (s t : State) :
    Sys2Proof.core.run (n + 1) s = .next t ↔ ∃ u, step s = .next u ∧ Sys2Proof.core.run n u = .next t :=
  core_run_succ Sys2Proof.core n s t

end Sys2Proof.Machine
end

