-- ==== Sys2Proof/Tests/Slice0.lean ====
section
/-! SUPPORT. Tests. `test_…`: expected values from spec/95_test_vectors.md, from the worked examples in the rules, or from
the encoding tables. `witness_…`: concrete states and operands that meet the hypotheses of the obligation they name, clause
by clause. -/

namespace Sys2Proof.Tests

open Sys2Proof Sys2Proof.Machine

/-! ### Helpers -/

/-- The next state, if there is one. -/
def out (o : Host.Outcome State Fault Refusal) : Option State :=
  match o with
  | .next t => some t
  | .fault _ => none
  | .refused _ => none

/-- The fault, if the step faults. -/
def faultOf (o : Host.Outcome State Fault Refusal) : Option Fault :=
  match o with
  | .next _ => none
  | .fault r => some r
  | .refused _ => none

/-- The refusal, if the step is refused. -/
def refusalOf (o : Host.Outcome State Fault Refusal) : Option Refusal :=
  match o with
  | .next _ => none
  | .fault _ => none
  | .refused r => some r

/-- STATUS of the next state, its FSM field the sequencer state. -/
def statusOf (o : Host.Outcome State Fault Refusal) : Option Word := (out o).map (fun t => t.statusWith t.fsm.bits)

/-- The digest registers of the next state. -/
def digestOf (o : Host.Outcome State Fault Refusal) : Option Digest := (out o).map (·.digest)

/-- Words stored from `BUF[k]` on. -/
def stored (s : State) (k : Nat) : List Word → State
  | [] => s
  | w :: r => stored (s.storeBuf k w) (k + 1) r

/-- A core in the middle of a message, with words in its buffer and a command pending. -/
def busyOn (i : Instr) (len : Nat) (ws : List Word) : State :=
  { stored State.reset 0 ws with fsm := .streaming, len := BitVec.ofNat 32 len, pending := some i }

/-- An idle core in a sequencer state, with a length. -/
def idleIn (f : Fsm) (len : Nat) : State := { State.reset with fsm := f, len := BitVec.ofNat 32 len }

/-- The same with an error recorded. -/
def errIn (f : Fsm) (len : Nat) : State := { idleIn f len with err := true, errCode := .badState, ovf := true }

/-- Sixteen words. -/
def words16 (w : Word) : List Word := List.replicate 16 w

/-! ### Decoding: the words of spec/30_encoding.md R92, bit by bit -/

theorem test_decode_nop : decode 0b00000000000000000000000000000000#32 = .ok .nop := by decide
theorem test_decode_init : decode 0b00000000000000000000000000000001#32 = .ok .init := by decide
theorem test_decode_chunk : decode 0b00000000000000000000000000000010#32 = .ok .chunk := by decide
theorem test_decode_absorb : decode 0b00000000000000000000000000000011#32 = .ok .absorb := by decide
theorem test_decode_final : decode 0b00000000000000000000000000000100#32 = .ok .final := by decide
theorem test_decode_oneshot : decode 0b00000000000000000000000000000101#32 = .ok .oneshot := by decide
theorem test_decode_block : decode 0b00000000000000000000000000000110#32 = .ok .block := by decide
theorem test_decode_reserved_opcodes :
    decode 0x7#32 = .error .reservedOpcode ∧ decode 0xF#32 = .error .reservedOpcode := by decide
theorem test_decode_reserved_bits :
    decode 0x12#32 = .error .reservedBits ∧ decode 0x80000001#32 = .error .reservedBits := by decide
theorem test_decodeTableWord :
    decodeTableWord 32 6 = some .block ∧ decodeTableWord 32 8 = none ∧ decodeTableWord 64 (2 ^ 32) = none := by decide

/-! ### WellFormed: each check refuses an ill-formed term -/

theorem test_wf_refuses_width : Stmt.wf [] (.wr 0x0008 2 0#32) = false := by decide
theorem test_wf_refuses_alignment : Stmt.wf [] (.rd 0x0006 4 none) = false := by decide
theorem test_wf_refuses_range : Stmt.wf [] (.wr 0x10000 4 0#32) = false := by decide
theorem test_wf_refuses_missing_label : programWf [.label 1, .bnz 0 1#32 2] = false := by decide
theorem test_wf_accepts_poll : programWf (asmRun .init 0 0) = true := by decide
theorem test_wf_chunk_sizes :
    Config.legalChunkBytes 10240 = true ∧ Config.legalChunkBytes 0 = false ∧ Config.legalChunkBytes 100 = false ∧
    Config.legalChunkBytes 32832 = false := by decide

/-! ### The compression function (95_test_vectors.md sections 3 and 4) -/

theorem test_add32 : add32 0x67452301#32 0x98badcfe#32 = 0xffffffff#32 ∧ add32 0xffffffff#32 1#32 = 0#32 := by decide
theorem test_rotl32 :
    rotl32 0x80000001#32 1 = 0x00000003#32 ∧ rotl32 0x12345678#32 31 = 0x091a2b3c#32 ∧
    rotl32 0x57ce06d8#32 7 = 0xe7036c2b#32 := by decide
theorem test_nonlinear :
    fF 0xffff0000#32 0x12345678#32 0x9abcdef0#32 = 0x1234def0#32 ∧
    fG 0xffff0000#32 0x12345678#32 0x9abcdef0#32 = 0x9abc0008#32 ∧
    fH 0xffff0000#32 0x12345678#32 0x9abcdef0#32 = 0x77778888#32 ∧
    fI 0xffff0000#32 0x12345678#32 0x9abcdef0#32 = 0xedcb7777#32 := by decide
theorem test_tables :
    [0, 15, 16, 31, 32, 47, 48, 62, 63].map (fun i => (tConst i, shiftAmt i, wordIdx i)) =
      [(0xd76aa478#32, 7, 0), (0x49b40821#32, 22, 15), (0xf61e2562#32, 5, 1), (0x8d2a4c8a#32, 20, 12),
       (0xfffa3942#32, 4, 5), (0xc4ac5665#32, 23, 2), (0xf4292244#32, 6, 0), (0x2ad7d2bb#32, 15, 2),
       (0xeb86d391#32, 21, 9)] := by decide +kernel
/-- Section 3.1: the block of "abc". -/
def abcBlock : List Word := 0x80636261#32 :: (List.replicate 13 0#32 ++ [0x18#32, 0#32])
theorem test_step_trace :
    md5Steps abcBlock iv 4 = ⟨0xd6d117b4#32, 0x7ad956f2#32, 0x2f6fbd72#32, 0x344a8432#32⟩ ∧
    md5Steps abcBlock iv 17 = ⟨0x3e9e9126#32, 0x72aff2e0#32, 0xe396856b#32, 0xa1051895#32⟩ := by decide +kernel
theorem test_step_trace_end :
    md5Steps abcBlock iv 64 = ⟨0x310ade8f#32, 0xc08226b3#32, 0xe484b9d8#32, 0x624d8cb2#32⟩ := by decide +kernel
theorem test_digest_bytes :
    digestBytes ⟨0x98500190#32, 0xb04fd23c#32, 0x7d3f96d6#32, 0x727fe128#32⟩ =
      [0x90#8, 0x01#8, 0x50#8, 0x98#8, 0x3c#8, 0xd2#8, 0x4f#8, 0xb0#8, 0xd6#8, 0x96#8, 0x3f#8, 0x7d#8,
       0x28#8, 0xe1#8, 0x7f#8, 0x72#8] := by decide

/-! ### The packer (section 5.1, 5.2) -/

theorem test_padded_lengths :
    [0, 1, 55, 56, 63, 64, 119, 120].map paddedWords = [16, 16, 16, 32, 32, 32, 32, 48] := by decide
theorem test_pack_c_after_64 :
    packFinal [0x63#8] 64#64 = 0x00008063#32 :: (List.replicate 13 0#32 ++ [0x208#32, 0#32]) := by decide +kernel
theorem test_bit_length :
    bitLength (BitVec.ofNat 64 (2 ^ 61 - 2)) 1 = 0xfffffffffffffff8#64 ∧ bitLength (BitVec.ofNat 64 (2 ^ 61)) 0 = 0#64 ∧
    overflows (BitVec.ofNat 64 (2 ^ 61 - 2)) 1 = false ∧ overflows (BitVec.ofNat 64 (2 ^ 61 - 1)) 1 = true := by decide
theorem test_pack_refuses_63 :
    (match pack .noPadding (List.replicate 63 0#8) 0#64 with | .error e => some e | .ok _ => none) =
      some .invalidChunkLength := by decide

/-! ### The commands: their issue (section 5.5) and their completion (sections 1, 2, 5.2, 5.4) -/

theorem test_nop_in_done : statusOf (exec .nop (idleIn .done 3)) = some 0x6#32 := by decide
theorem test_init_clears_error :
    out (exec .init (errIn .done 65)) = some { idleIn .done 65 with pending := some .init } := by decide
theorem test_init_completes :
    (out (exec .init { idleIn .done 0 with pending := some .init, count := 7#64 })).map
      (fun t => (t.digest, t.count, t.statusWith t.fsm.bits)) =
    some (⟨0x67452301#32, 0xefcdab89#32, 0x98badcfe#32, 0x10325476#32⟩, 0#64, 0x2#32) := by decide
theorem test_chunk_in_init : statusOf (exec .chunk (idleIn .init 3)) = some 0x28#32 := by decide
/-- Source example S2. -/
theorem test_chunk_abc : digestOf (exec .chunk (busyOn .chunk 3 [0x00636261#32])) =
    some ⟨0x98500190#32, 0xb04fd23c#32, 0x7d3f96d6#32, 0x727fe128#32⟩ := by decide +kernel
/-- Program P3: the last chunk of an exact multiple, TOTAL in use. -/
theorem test_chunk_reaches_total :
    digestOf (exec .chunk { busyOn .chunk 64 (words16 0x61616161#32) with useTotal := true, total := 64#64 }) =
      some ⟨0xd4424801#32, 0x4971b580#32, 0x63034a5a#32, 0x67733f79#32⟩ := by decide +kernel
theorem test_absorb_length : statusOf (exec .absorb (idleIn .streaming 3)) = some 0x1A#32 := by decide
/-- Section 5.2: ABSORB at the wrap of COUNT. -/
theorem test_absorb_at_wrap :
    (out (exec .absorb { busyOn .absorb 64 (words16 0#32) with count := BitVec.ofNat 64 (2 ^ 64 - 64) })).map
      (fun t => (t.digest, t.count, t.ovf, t.fsm)) =
    some (⟨0x031f1dac#32, 0x6ea58ed0#32, 0x1fab67b7#32, 0x74317791#32⟩, 0#64, true, .streaming) := by decide +kernel
theorem test_final_bad_len : statusOf (exec .final (idleIn .streaming 65)) = some 0x3A#32 := by decide
/-- Section 5.2: FINAL with `LEN = 0` at `COUNT = 2^61`. -/
theorem test_final_at_overflow :
    (out (exec .final { busyOn .final 0 [] with count := BitVec.ofNat 64 (2 ^ 61) })).map
      (fun t => (t.digest, t.count, t.statusWith t.fsm.bits)) =
    some (⟨0xd98c1dd4#32, 0x04b2008f#32, 0x980980e9#32, 0x7e42f8ec#32⟩, BitVec.ofNat 64 (2 ^ 61), 0x86#32) := by
  decide +kernel
/-- Section 5.5: a ONESHOT with a bad length while ERR = 1 records nothing and clears nothing. -/
theorem test_oneshot_rejected_while_err : out (exec .oneshot (errIn .done 65)) = some (errIn .done 65) := by decide
/-- Section 2: "a" × 56, two blocks. -/
theorem test_oneshot_56 : digestOf (exec .oneshot (busyOn .oneshot 56 (List.replicate 14 0x61616161#32))) =
    some ⟨0xc78a0c3b#32, 0xb028f803#32, 0x70196c4c#32, 0x1872d106#32⟩ := by decide +kernel
/-- Section 5.5: BLOCK does not read LEN. -/
theorem test_block_ignores_len :
    out (exec .block (idleIn .streaming 65)) = some { idleIn .streaming 65 with pending := some .block } := by decide
/-- Section 2: the first block of "a" × 64. -/
theorem test_block_a64 :
    (out (exec .block (busyOn .block 65 (words16 0x61616161#32)))).map (fun t => (t.digest, t.count, t.fsm)) =
    some (⟨0x89d4ff56#32, 0x125cd962#32, 0x69cade33#32, 0x0033e325#32⟩, 0#64, .streaming) := by decide +kernel
/-- Program P9. -/
theorem test_unwritten_word_faults :
    faultOf (exec .chunk (busyOn .chunk 5 [0x00636261#32])) = some .unwrittenBuffer := by decide

/-! ### The port (section 5.6) and the host -/

theorem test_cfg_write : (out (hostWrite 0x000C 4 0xffffffff#32 State.reset)).map (·.useTotal) = some true := by decide
theorem test_read_only_write :
    out (hostWrite 0x0020 4 0x12345678#32 State.reset) = some State.reset.hostNext := by decide
theorem test_read_chunk_size :
    (out (hostRead 0x0030 4 (some 0) State.reset)).map (·.vars) = some [(0, 0x40#32)] := by decide
theorem test_buf_write_read :
    ((out (hostWrite 0x800C 4 0xdeadbeef#32 State.reset)).bind (fun t => out (hostRead 0x800C 4 (some 0) t))).map
      (·.vars) = some [(0, 0xdeadbeef#32)] := by decide
/-- Program P6: BUSY_WRITE with BUSY and ERR set and code 5. -/
theorem test_busy_write :
    (out (hostWrite 0x0008 4 5#32 (busyOn .init 0 []))).map (fun t => (t.statusWith 0#2, t.len)) =
      some (0x59#32, 0#32) := by decide
theorem test_illegal_word : statusOf (hostWrite 0x0000 4 0x12#32 State.reset) = some 0x48#32 := by decide
/-- R96: LOADMSG "abc" writes `BUF[0] = 0x00636261` (P5). -/
theorem test_loadmsg : asmLoadMsg [0x61#8, 0x62#8, 0x63#8] = [.wr 0x8000 4 0x00636261#32] := by decide
theorem test_reset_turn :
    (out (step { busyOn .block 3 [1#32] with turns := [.reset] })).map
      (fun t => (t.pending, t.fsm, t.len, t.isWritten 0, t.mem.length)) = some (none, .init, 0#32, false, 4) := by decide

/-! ### Placing a word after reset -/

theorem test_first_step_init :
    (out (step (State.reset.withFetchWord 32 1))).map (·.pending) = some (some .init) := by decide
theorem test_first_step_chunk : statusOf (step (State.reset.withFetchWord 32 2)) = some 0x28#32 := by decide
theorem test_first_step_oneshot :
    (out (step (State.reset.withFetchWord 32 5))).map (·.pending) = some (some .oneshot) := by decide

/-! ### Witnesses: encoding, compression, packer -/

theorem witness_IllegalWordRaisesIllegalCmd :
    State.reset.busy = false ∧ (0x10#32).toNat / 16 ≠ 0 ∧ (0xffffffff#32).toNat / 16 ≠ 0 ∧ 7 ≤ (0x7#32).toNat % 16 ∧
    7 ≤ (0xf#32).toNat % 16 ∧ ¬((0x6#32).toNat / 16 ≠ 0 ∨ 7 ≤ (0x6#32).toNat % 16) := by decide
theorem witness_DecodeAgreesWithEncode : decode 6#32 = .ok .block ∧ encode .block = 6#32 := by decide
theorem witness_WordArithmeticWrapsAndRotates :
    (rotl32 0x80000000#32 1).getLsbD ((31 + 1) % 32) = true ∧ (rotl32 1#32 31).getLsbD ((0 + 31) % 32) = true := by decide
theorem witness_NonlinearFunctionsByRound :
    [0, 15, 16, 31, 32, 47, 48, 63].map (fun i => fnOf i 0xffff0000#32 0x12345678#32 0x9abcdef0#32) =
      [0x1234def0#32, 0x1234def0#32, 0x9abc0008#32, 0x9abc0008#32, 0x77778888#32, 0x77778888#32, 0xedcb7777#32,
       0xedcb7777#32] := by decide
theorem witness_StepScheduleOfEachRound :
    [0, 15, 16, 31, 32, 47, 48, 63].map shiftAmt = [7, 22, 5, 20, 4, 23, 6, 21] ∧ wordIdx (16 * 3 + 9) = 15 := by decide
theorem witness_StepUpdatesOneRegisterInRoles :
    60 < 64 ∧ 60 % 4 = 0 ∧ 61 % 4 = 1 ∧ 62 % 4 = 2 ∧ 63 % 4 = 3 ∧ 63 < 64 := by decide
theorem witness_BlocksCompressInOrderWithChaining : (words16 1#32).length = 16 ∧ (words16 1#32).length % 16 = 0 := by
  decide
theorem witness_PaddedWordCountIsSmallest :
    56 / 4 + 1 ≤ 30 ∧ 30 % 16 = 14 ∧ 56 + 9 ≤ 64 * 2 ∧ ¬(56 + 9 ≤ 64 * 1) ∧ 55 / 4 + 1 ≤ 14 ∧ 14 % 16 = 14 := by decide
theorem witness_PaddedFragmentLayout :
    0 < [0x61#8].length ∧ [0x61#8].length < 2 ∧ 55 < 4 * paddedWords [0x61#8].length - 8 ∧
    (paddedBytes [0x61#8] 0#64)[55]? = some 0#8 ∧ (paddedBytes [0x61#8] 0#64)[56]? = some 8#8 := by decide
theorem witness_WordsPackLittleEndian :
    [1#8, 2#8, 3#8, 4#8].length % 4 = 0 ∧ 0 < [1#8, 2#8, 3#8, 4#8].length / 4 ∧
    (busyOn .chunk 5 [0x04030201#32, 0xffffff05#32]).bufBytes 5 = some [1#8, 2#8, 3#8, 4#8, 5#8] ∧ 0 < 5 / 4 ∧ 4 < 5 ∧
    (busyOn .chunk 5 [0x04030201#32, 0xffffff05#32]).bufWord (4 / 4) = some 0xffffff05#32 := by decide
theorem witness_PackerModesGiveWholeBlocks :
    (List.replicate 64 0#8).length % 64 = 0 ∧ (List.replicate 63 0#8).length % 64 ≠ 0 ∧
    (match pack .noPadding [] 0#64 with | .ok ws => some ws | .error _ => none) = some [] ∧
    (match pack .finalPadded [] 0#64 with | .ok ws => some ws.length | .error _ => none) = some 16 := by decide
theorem witness_UnusedLanesNeverRead :
    1 = 5 / 4 ∧ (∀ b, b < 8 * (5 % 4) → (0x05#32).getLsbD b = (0xffffff05#32).getLsbD b) ∧ wordsFor 5 ≤ 2 := by decide

/-! ### Witnesses: registers and the port -/

theorem witness_ChunkSizeLegalByConstruction :
    Config.buildChunk 64 = some 0 ∧ Config.buildChunk 32768 = some 511 ∧ Config.buildChunk 0 = none ∧
    Config.buildChunk 32832 = none := by decide
theorem witness_IdleReadsReturnTheRegisters :
    (stored State.reset 0 (words16 7#32)).busy = false ∧ 4 * 15 < (stored State.reset 0 (words16 7#32)).chunkBytes ∧
    (stored State.reset 0 (words16 7#32)).bufWord 0 = some 7#32 ∧
    (stored State.reset 0 (words16 7#32)).bufWord 15 = some 7#32 := by decide
/-- A read without a name (R95) binds nothing; without a name too, an unspecified read draws its value (R38). -/
theorem witness_read_without_name :
    out (hostRead 0x0008 4 none (idleIn .done 3)) = some (idleIn .done 3).hostNext ∧
    out (hostRead 0x0020 4 none (busyOn .init 0 [])) = some { (busyOn .init 0 []).hostNext with draws := 1 } ∧
    (out (hostRead 0x0008 4 (some 2) (idleIn .done 3))).map (·.vars) = some [(2, 3#32)] := by decide
theorem witness_UnspecifiedReadsAreFreeValues :
    (busyOn .init 0 [7#32]).busy = true ∧ 0x0018 ∈ [0x0018, 0x001C, 0x0020, 0x0024, 0x0028, 0x002C] ∧
    4 * 15 < (busyOn .init 0 [7#32]).chunkBytes ∧ (busyOn .init 0 [7#32]).bufWord 0 = some 7#32 ∧
    (busyOn .init 0 [7#32]).isWritten 1 = false ∧ (busyOn .init 0 [7#32]).isWritten 15 = false := by decide
theorem witness_ReservedAndReadOnlyOffsets :
    (0x0034 % 4 = 0 ∧ 0x0034 ≤ 0x0034 ∧ 0x7FFC % 4 = 0 ∧ 0x7FFC < 0x8000) ∧
    (0x8040 % 4 = 0 ∧ 0x8000 + State.reset.chunkBytes ≤ 0x8040 ∧ 0xFFFC % 4 = 0 ∧ 0xFFFC < 0x10000) ∧
    (0x0018 ≤ 0x0018 ∧ 0x0030 ≤ 0x0030 ∧ 0x0030 % 4 = 0) := by decide
theorem witness_OtherAccessFormsRefused :
    refusalOf (hostWrite 0x0008 2 0#32 State.reset) = some .notInHardware ∧
    refusalOf (hostRead 0x0006 4 none State.reset) = some .notInHardware ∧
    refusalOf (hostRead 0x10000 4 none State.reset) = some .notInHardware := by decide
theorem witness_OperandRegisterWrites : State.reset.busy = false := by decide
theorem witness_BufferWriteStoresOneWord :
    State.reset.busy = false ∧ 4 * 0 < State.reset.chunkBytes ∧ 4 * 15 < State.reset.chunkBytes ∧
    ¬(4 * 16 < State.reset.chunkBytes) ∧ 0x8000 + 4 * 15 + 4 ≤ 0x8040 ∧ 0x803B < 0x8000 + 4 * 15 ∧ 14 ≠ 15 := by decide
theorem witness_DigestByteOrder : (digestBytes iv)[3]? = some 0x67#8 ∧ (digestBytes iv)[12 + 3]? = some 0x10#8 := by decide

/-! ### Witnesses: errors and acceptance -/

theorem witness_RaiseRecordsFirstErrorOnly :
    (State.reset.err = false ∧ (errIn .done 0).err = true) ∧
    (State.reset.raiseError .badLen).errCode = .badLen ∧ ((errIn .done 0).raiseError .badLen).errCode = .badState := by decide
theorem witness_BadStateOutsideStreaming :
    ((idleIn .done 65).busy = false ∧ (idleIn .done 65).err = false ∧ (idleIn .done 65).fsm ≠ .streaming) ∧
    (idleIn .init 3).fsm ≠ .streaming ∧ (out (exec .nop (errIn .done 3))).map (·.errCode) = some .badState := by decide
theorem witness_LengthErrorsAtAcceptance :
    ((idleIn .streaming 65).busy = false ∧ (idleIn .streaming 65).chunkBytes < (idleIn .streaming 65).len.toNat ∧
      (idleIn .streaming 65).err = false ∧ (idleIn .streaming 65).fsm = .streaming) ∧ (errIn .done 65).err = true ∧
    ((idleIn .streaming 63).len.toNat ≤ (idleIn .streaming 63).chunkBytes ∧ (idleIn .streaming 63).len.toNat % 64 ≠ 0) ∧
    (out (exec .nop { idleIn .done 3 with errCode := .invalidChunkLength })).map (·.errCode) =
      some .invalidChunkLength := by decide
theorem witness_CommandsDroppedWhileErr :
    (errIn .streaming 3).busy = false ∧ (errIn .streaming 3).err = true ∧
    out (exec .chunk (errIn .streaming 3)) = some (errIn .streaming 3) := by decide
theorem witness_AcceptedCommandBecomesPending :
    ((idleIn .streaming 64).busy = false ∧ (idleIn .streaming 64).len.toNat ≤ (idleIn .streaming 64).chunkBytes ∧
      (idleIn .streaming 64).fsm = .streaming ∧ (idleIn .streaming 64).err = false ∧
      (idleIn .streaming 64).len.toNat % 64 = 0) ∧
    (idleIn .done 0).len.toNat ≤ (idleIn .done 0).chunkBytes := by decide
theorem witness_GuardedWritesDroppedWhileBusy :
    (busyOn .init 0 []).busy = true ∧ 0x803C % 4 = 0 ∧ 0x8000 ≤ 0x8000 ∧
    0x803C < 0x8000 + (busyOn .init 0 []).chunkBytes ∧ ((busyOn .init 0 []).err = false ∧
    { busyOn .init 0 [] with err := true, errCode := .badLen }.err = true) := by decide

/-! ### Witnesses: completion -/

theorem witness_NopChangesNothing : (errIn .done 65).busy = false ∧ (idleIn .streaming 3).busy = false := by decide
theorem witness_InitCompletes : (busyOn .init 0 []).pending = some .init := by decide
theorem witness_FullChunkIsAbsorbed :
    (busyOn .chunk 64 (words16 7#32)).pending = some .chunk ∧
    (busyOn .chunk 64 (words16 7#32)).len.toNat = (busyOn .chunk 64 (words16 7#32)).chunkBytes ∧
    ((busyOn .chunk 64 (words16 7#32)).bufBytes 64).isSome = true ∧ (busyOn .chunk 64 (words16 7#32)).useTotal = false ∧
    { busyOn .chunk 64 (words16 7#32) with useTotal := true, total := 63#64 }.count + BitVec.ofNat 64 64 ≠ 63#64 := by
  decide
theorem witness_ChunkReachingTotalFinalises :
    let s := { busyOn .chunk 64 (words16 7#32) with useTotal := true, total := 64#64 }
    let w := { s with count := BitVec.ofNat 64 (2 ^ 64 - 64), total := 0#64 }
    (s.pending = some .chunk ∧ s.len.toNat = s.chunkBytes ∧ (s.bufBytes s.len.toNat).isSome = true ∧
      s.useTotal = true ∧ s.count + BitVec.ofNat 64 s.len.toNat = s.total) ∧
    w.count + BitVec.ofNat 64 w.len.toNat = w.total := by decide
theorem witness_FinalAndShortChunkFinalise :
    ((busyOn .final 64 (words16 7#32)).pending = some .final ∧
      ((busyOn .final 64 (words16 7#32)).bufBytes 64).isSome = true) ∧
    ((busyOn .chunk 63 (words16 7#32)).len.toNat < (busyOn .chunk 63 (words16 7#32)).chunkBytes ∧
      ((busyOn .chunk 63 (words16 7#32)).bufBytes 63).isSome = true) ∧
    ((busyOn .chunk 0 []).len.toNat < (busyOn .chunk 0 []).chunkBytes ∧ (busyOn .chunk 0 []).bufBytes 0 = some []) := by
  decide
theorem witness_AbsorbCompressesWholeBlocks :
    ((busyOn .absorb 64 (words16 7#32)).len.toNat % 64 = 0 ∧
      ((busyOn .absorb 64 (words16 7#32)).bufBytes 64).isSome = true) ∧
    ((busyOn .absorb 0 []).pending = some .absorb ∧ (busyOn .absorb 0 []).bufBytes 0 = some [] ∧
      (busyOn .absorb 0 []).len = 0#32 ∧ (busyOn .absorb 0 []).count.toNat < 2 ^ 61) := by decide
theorem witness_OneshotDigestsTheBuffer :
    (busyOn .oneshot 3 [0x00636261#32]).pending = some .oneshot ∧
    (busyOn .oneshot 3 [0x00636261#32]).bufBytes 3 = some [0x61#8, 0x62#8, 0x63#8] := by decide
theorem witness_BlockCompressesTheBuffer :
    (busyOn .block 0 (words16 7#32)).pending = some .block ∧ (words16 7#32).length = 16 ∧
    ∀ k, k < 16 → (busyOn .block 0 (words16 7#32)).bufWord k = (words16 7#32)[k]? := by decide
/-- The short buffer of program P9, and a full one. -/
theorem witness_CompletionFaultsExactlyOnUnwritten :
    ((busyOn .chunk 5 [7#32]).Inv ∧ (busyOn .chunk 5 [7#32]).pending = some .chunk ∧
      1 < consumedWords .chunk (busyOn .chunk 5 [7#32]) ∧ (busyOn .chunk 5 [7#32]).isWritten 1 = false) ∧
    (busyOn .block 0 (words16 7#32)).Inv ∧
      ∀ k, k < consumedWords .block (busyOn .block 0 (words16 7#32)) →
        (busyOn .block 0 (words16 7#32)).isWritten k = true :=
  ⟨⟨⟨by decide, by decide, by decide, by decide, by decide, by decide⟩, by decide, by decide, by decide⟩,
    ⟨by decide, by decide, by decide, by decide, by decide, by decide⟩, by decide⟩
theorem witness_CommandsNeverModifyOperands :
    (∃ t, exec .final (busyOn .final 0 []) = .next t) ∧ ∃ t, exec .chunk (idleIn .streaming 3) = .next t :=
  ⟨⟨_, rfl⟩, ⟨_, rfl⟩⟩
theorem witness_FrameOfIssueAndCompletion :
    ((idleIn .streaming 3).busy = false ∧ ∃ t, exec .chunk (idleIn .streaming 3) = .next t) ∧
    (busyOn .final 0 []).busy = true ∧ ∃ t, exec .final (busyOn .final 0 []) = .next t :=
  ⟨⟨rfl, _, rfl⟩, rfl, _, rfl⟩

/-! ### Witnesses: the whole machine -/

theorem witness_StepRunsTheDecodedCommand :
    (let s := { State.reset with prog := [.wr 0x0000 4 1#32] };
      s.turn = .host ∧ s.busy = false ∧ s.hostStmt = some (.wr 0x0000 4 1#32) ∧ decode 1#32 = .ok .init) ∧
    ((busyOn .init 0 []).turn = .core ∧ (busyOn .init 0 []).pending = some .init) ∧
    (let s := { busyOn .init 0 [] with prog := [.wr 0x0008 4 5#32, .rd 0x0004 4 none, .label 1, .bnz 0 1#32 1], turns := [.host] };
      s.turn = .host ∧ s.hostStmt = some (.wr 0x0008 4 5#32) ∧
      { s with hpc := 1 }.hostStmt = some (.rd 0x0004 4 none) ∧ { s with hpc := 2 }.hostStmt = some (.label 1) ∧
      { s with hpc := 3 }.hostStmt = some (.bnz 0 1#32 1) ∧ { s with hpc := 4 }.hostStmt = none) ∧
    { State.reset with turns := [.core] }.turn = .core ∧ State.reset.pending = none ∧ State.reset.turns = [] := by decide
theorem witness_HostBranchFollowsTheMask :
    (let s := { State.reset with prog := [.label 9, .bnz 0 1#32 9], hpc := 1, vars := [(0, 3#32)] };
      s.hostStmt = some (.bnz 0 1#32 9) ∧ lookupKey 0 s.vars = some 3#32 ∧ 3#32 &&& 1#32 ≠ 0#32 ∧
      labelAt 9 s.prog = some 0) ∧ 2#32 &&& 1#32 = 0#32 ∧
    { State.reset with prog := [.label 9] }.hostStmt = some (.label 9) ∧
    labelAt 9 [.label 8, .label 9, .label 9] = some 1 ∧ 0 < 1 ∧ labelAt 7 [.label 8] = none ∧ 1 ≠ 0 ∧
    refusalOf (hostStep { State.reset with prog := [.bnz 0 1#32 7], vars := [(0, 3#32)] }) = some .unknownLabel ∧
    refusalOf (hostStep { State.reset with prog := [.bnz 1 1#32 7], vars := [(0, 3#32)] }) = some .unboundName := by decide
theorem witness_ResetAbandonsThePendingCommand :
    { busyOn .block 3 [1#32] with turns := [.reset] }.turn = .reset := by decide
theorem witness_StepKeepsTheInvariant :
    (State.reset.withFetchWord 32 1).Inv ∧ ∃ t, step (State.reset.withFetchWord 32 1) = .next t :=
  ⟨⟨by decide, by decide, by decide, by decide, by decide, by decide⟩, _, rfl⟩
theorem witness_FirstErrorKeptUntilRecovery :
    ((errIn .done 3).err = true ∧ ∃ t, step ((errIn .done 3).withFetchWord 32 2) = .next t ∧ t.errCode = .badState) ∧
    ∃ t, step ((errIn .done 3).withFetchWord 32 5) = .next t ∧ t.err = false :=
  ⟨⟨rfl, _, rfl, rfl⟩, _, rfl, rfl⟩
theorem witness_OverflowFlagStickyAndCaused :
    ((errIn .done 3).ovf = true ∧ ∃ t, step ((errIn .done 3).withFetchWord 32 1) = .next t ∧ t.ovf = false) ∧
    (let s := { busyOn .final 0 [] with count := BitVec.ofNat 64 (2 ^ 61) };
      s.ovf = false ∧ (out (step s)).map (·.ovf) = some true) := by
  refine ⟨⟨rfl, _, rfl, rfl⟩, ?_⟩
  decide
theorem witness_OnlyCompletionsWriteDigestAndCount :
    (let s := { busyOn .init 0 [] with digest := ⟨0#32, 0#32, 0#32, 0#32⟩, count := 64#64 };
      (out (step s)).map (·.digest) = some iv ∧ (out (step s)).map (·.count) = some 0#64) := by decide
theorem witness_DoneDigestIsImmutable :
    (idleIn .done 3).Inv ∧ (idleIn .done 3).fsm = .done ∧ ∃ t, step (idleIn .done 3) = .next t :=
  ⟨⟨by decide, by decide, by decide, by decide, by decide, by decide⟩, rfl, _, rfl⟩
/-- Every row of the table. -/
theorem witness_SequencerTransitions :
    ((out (step { idleIn .done 3 with turns := [.reset] })).map (·.fsm) = some .init) ∧
    ((out (step { idleIn .done 3 with pending := some .init })).map (·.fsm) = some .streaming) ∧
    ((out (step { idleIn .init 0 with pending := some .oneshot })).map (·.fsm) = some .done) ∧
    ((out (step (busyOn .final 0 []))).map (·.fsm) = some .done) ∧
    ((out (step (busyOn .chunk 0 []))).map (·.fsm) = some .done) ∧
    ((out (step { busyOn .chunk 64 (words16 7#32) with useTotal := true, total := 64#64 })).map (·.fsm) = some .done) := by
  decide
theorem witness_BusyFromAcceptanceToCompletion :
    (∃ t, step (State.reset.withFetchWord 32 1) = .next t ∧ t.busy = true) ∧
    (∃ t, step { busyOn .init 0 [] with turns := [.host] } = .next t ∧ t.busy = true) ∧
    ∃ t, step (busyOn .init 0 []) = .next t ∧ t.busy = false :=
  ⟨⟨_, rfl, rfl⟩, ⟨_, rfl, rfl⟩, _, rfl, rfl⟩
theorem witness_OperandsStableWhileBusy :
    { busyOn .init 0 [] with turns := [.host], prog := [.wr 0x0008 4 5#32] }.busy = true ∧
    (out (step { busyOn .init 0 [] with turns := [.host], prog := [.wr 0x0008 4 5#32] })).map (·.len) = some 0#32 := by
  decide
/-- With the end of the schedule at once, and with the core's turn after two host turns. -/
theorem witness_AcceptedCommandCompletes :
    ((busyOn .init 0 []).pending = some .init ∧ (busyOn .init 0 []).turns = List.replicate 0 .host ++ [] ∧
      ∃ u, Sys2Proof.core.run 0 (busyOn .init 0 []) = .next u) ∧
    [Turn.host, .host, .core] = List.replicate 2 .host ++ [.core] ∧ [Turn.core].head? = some .core ∧
    (∃ u, Sys2Proof.core.run 2 { busyOn .init 0 [] with turns := [.host, .host, .core] } = .next u) ∧
    ∃ t, exec .init (busyOn .init 0 []).popTurn = .next t :=
  ⟨⟨by decide, by decide, _, rfl⟩, by decide, by decide, ⟨_, rfl⟩, _, rfl⟩
/-! ### Witnesses: the digest of a message -/

theorem witness_StreamingExtendsTheMessage :
    ((busyOn .absorb 64 (words16 7#32)).Streamed [] ∧ ((busyOn .absorb 64 (words16 7#32)).bufBytes 64).isSome = true ∧
      (busyOn .absorb 64 (words16 7#32)).len.toNat % 64 = 0) ∧
    ((busyOn .chunk 64 (words16 7#32)).Streamed [] ∧ (busyOn .chunk 64 (words16 7#32)).len.toNat =
      (busyOn .chunk 64 (words16 7#32)).chunkBytes ∧ (busyOn .chunk 64 (words16 7#32)).useTotal = false) ∧
    (busyOn .init 0 []).pending = some .init :=
  ⟨⟨⟨rfl, rfl, rfl, rfl⟩, by decide, by decide⟩, ⟨⟨rfl, rfl, rfl, rfl⟩, by decide, by decide⟩, rfl⟩
/-- The steps from a state with the empty message taken in: one state for each case of the third clause, and both forms of
its cases for CHUNK. -/
theorem witness_StreamingExtendsTheMessage_steps :
    ∀ s ∈ [{ busyOn .final 0 [] with turns := [.host] }, { idleIn .streaming 0 with turns := [.core] },
        busyOn .absorb 64 (words16 7#32), busyOn .chunk 64 (words16 7#32), busyOn .final 64 (words16 7#32),
        busyOn .chunk 63 (words16 7#32), { busyOn .chunk 64 (words16 7#32) with useTotal := true, total := 64#64 },
        { busyOn .chunk 64 (words16 7#32) with useTotal := true, total := 63#64 }, busyOn .init 0 [],
        busyOn .oneshot 3 [0x00636261#32], busyOn .block 0 (words16 7#32),
        { busyOn .block 0 (words16 7#32) with turns := [.reset] }],
      s.Inv ∧ s.Streamed [] ∧ (out (step s)).isSome = true := by
  intro s hs
  simp only [List.mem_cons, List.not_mem_nil, or_false] at hs
  rcases hs with rfl | rfl | rfl | rfl | rfl | rfl | rfl | rfl | rfl | rfl | rfl | rfl <;>
  exact ⟨⟨by decide, by decide, by decide, by decide, by decide, by decide⟩, ⟨rfl, rfl, rfl, rfl⟩, by decide⟩
theorem witness_EndingAMessageGivesItsDigest :
    ((busyOn .final 64 (words16 7#32)).Streamed [] ∧ ((busyOn .final 64 (words16 7#32)).bufBytes 64).isSome = true) ∧
    ((busyOn .chunk 63 (words16 7#32)).Streamed [] ∧
      (busyOn .chunk 63 (words16 7#32)).len.toNat < (busyOn .chunk 63 (words16 7#32)).chunkBytes) ∧
    (let s := { busyOn .chunk 64 (words16 7#32) with useTotal := true, total := 64#64 };
      s.Streamed [] ∧ s.len.toNat = s.chunkBytes ∧ s.useTotal = true ∧ s.total = BitVec.ofNat 64 (0 + s.len.toNat)) :=
  ⟨⟨⟨rfl, rfl, rfl, rfl⟩, by decide⟩, ⟨⟨rfl, rfl, rfl, rfl⟩, by decide⟩, ⟨rfl, rfl, rfl, rfl⟩, by decide, rfl, by decide⟩
/-- Two cores of different chunk sizes, in different states, with different upper lanes in the partial last word. -/
theorem witness_OneshotDependsOnlyOnTheBytes :
    let s := busyOn .oneshot 3 [0x00636261#32]
    let u := { stored (State.powerOn 1) 0 [0xff636261#32, 7#32] with len := 3#32, pending := some .oneshot, fsm := .done }
    s.pending = some .oneshot ∧ u.pending = some .oneshot ∧ s.chunkBytes ≠ u.chunkBytes ∧
    s.bufBytes s.len.toNat = some [0x61#8, 0x62#8, 0x63#8] ∧ u.bufBytes u.len.toNat = some [0x61#8, 0x62#8, 0x63#8] := by
  decide
theorem witness_PseudoInstructionsExpand :
    asmSetLen (2 ^ 32 - 1) = [.wr 0x0008 4 0xffffffff#32] ∧
    asmSetTotal (2 ^ 64 - 2) = [.wr 0x0010 4 0xfffffffe#32, .wr 0x0014 4 0xffffffff#32, .wr 0x000C 4 1#32] := by decide
theorem witness_LoadMsgWordsHoldTheMessage :
    (msgWords [1#8, 2#8, 3#8, 4#8, 5#8])[1]? = some 5#32 ∧
    (asmLoadMsg [1#8, 2#8, 3#8, 4#8, 5#8])[1]? = some (.wr 0x8004 4 5#32) := by decide
end Sys2Proof.Tests
end

