-- ==== Sys2Proof/Proofs/Scope.lean ====
section
/-! PROOFS. The chunk size (spec/00_scope.md R5, spec/70_reset_and_hazards.md R278): what the two functions of
`Config` answer, and that every core has a size that can be built. -/

namespace Sys2Proof

theorem Config.legalChunkBytes_iff (n : Nat) :
    Config.legalChunkBytes n = true ↔ n % 64 = 0 ∧ 64 ≤ n ∧ n ≤ 32768 := by
  simp [Config.legalChunkBytes, and_assoc]

/-- The check at construction (R278) is the check of R5. -/
theorem Config.isSome_buildChunk (n : Nat) :
    (Config.buildChunk n).isSome = Config.legalChunkBytes n := by
  rw [Bool.eq_iff_iff, Config.legalChunkBytes_iff, Config.buildChunk, Option.isSome_ite]

/-- The build parameter counts the blocks beyond the first, so it determines the size. -/
theorem Config.eq_of_buildChunk {n : Nat} {c : Fin 512} (h : Config.buildChunk n = some c) :
    64 * (c.val + 1) = n := by
  rw [Config.buildChunk, Option.ite_none_right_eq_some] at h
  obtain ⟨⟨hmod, hlo, hhi⟩, hc⟩ := h
  have hval : c.val = (n / 64 - 1) % 512 := by rw [← Option.some.inj hc]; rfl
  omega

namespace Machine

@[simp] theorem State.powerOn_chunkBytes (c : Fin 512) :
    (State.powerOn c).chunkBytes = 64 * (c.val + 1) := rfl

theorem State.legalChunkBytes_chunkBytes (s : State) : Config.legalChunkBytes s.chunkBytes = true := by
  obtain ⟨hhi, hlo, hmod⟩ := chunkBytes_le s
  exact (Config.legalChunkBytes_iff _).mpr ⟨hmod, hlo, hhi⟩

/-- Settles O17: a state's size is bounded by its build parameter, and building is the check of R5. -/
theorem chunkSizeLegalByConstruction : Obligations.ChunkSizeLegalByConstruction := by
  refine ⟨State.legalChunkBytes_chunkBytes, fun n => ⟨Config.isSome_buildChunk n, fun c hc => ?_⟩⟩
  rw [State.powerOn_chunkBytes]
  exact Config.eq_of_buildChunk hc

end Machine
end Sys2Proof
end

section
/-! PROOFS. The state and its registers (spec/10_state.md): the reset values, the layout of STATUS, what the port reads
and writes, and which steps may change the digest registers, COUNT, BUSY and the flags. -/

namespace Sys2Proof.Machine

/-! ### One access of the port -/

/-- An access at a word-aligned offset below 0x10000 is a read of the register there (R62, R64). -/
theorem hostRead_eq_readReg {s : State} {off : Nat} {r : Reg} (hp : portHas off 4 = true)
    (hr : regAt s.chunkBytes off = r) (dst : Option Nat) :
    hostRead off 4 dst s = .next ((readReg s.hostNext r).2.bindDst dst (readReg s.hostNext r).1) := by
  simp only [hostRead, hp, hr, if_true]

theorem hostWrite_eq_writeReg {s : State} {off : Nat} {r : Reg} (hp : portHas off 4 = true)
    (hr : regAt s.chunkBytes off = r) (v : Word) : hostWrite off 4 v s = writeReg v s.hostNext r := by
  simp only [hostWrite, hp, hr, if_true]

/-- Below the buffer's window the map does not depend on the chunk size (R61). -/
theorem regAt_low (cb : Nat) {off : Nat} (h : off < 0x8000) : regAt cb off = regAt 0 off := by
  have hw : ∀ c : Nat, ¬ (0x8000 ≤ off ∧ off < 0x8000 + c) := fun c hc => by omega
  simp only [regAt, if_neg (hw cb), if_neg (hw 0)]

theorem hostRead_low {s : State} {off : Nat} (hp : portHas off 4 = true) (h : off < 0x8000) (dst : Option Nat) :
    hostRead off 4 dst s =
      .next ((readReg s.hostNext (regAt 0 off)).2.bindDst dst (readReg s.hostNext (regAt 0 off)).1) :=
  hostRead_eq_readReg hp (regAt_low _ h) dst

theorem hostWrite_low {s : State} {off : Nat} (hp : portHas off 4 = true) (h : off < 0x8000) (v : Word) :
    hostWrite off 4 v s = writeReg v s.hostNext (regAt 0 off) :=
  hostWrite_eq_writeReg hp (regAt_low _ h) v

/-- Every word of the buffer is inside the register space (R60, R61). -/
theorem portHas_buf {s : State} {k : Nat} (hk : 4 * k < s.chunkBytes) : portHas (0x8000 + 4 * k) 4 = true := by
  obtain ⟨hhi, -, -⟩ := chunkBytes_le s
  simp only [portHas, Bool.and_eq_true, beq_iff_eq, decide_eq_true_eq]
  exact ⟨⟨trivial, by omega⟩, by omega⟩

@[simp] theorem hostNext_busy (s : State) : s.hostNext.busy = s.busy := (hostNext_same s).busy_eq

theorem hostNext_bufWord (s : State) (k : Nat) : s.hostNext.bufWord k = s.bufWord k :=
  bufWord_congr (s := s) (t := s.hostNext) rfl rfl k

theorem writeReg_idle {s : State} (hb : s.busy = false) (v : Word) :
    writeReg v s .len = .next (s.setLen v) ∧ writeReg v s .cfg = .next (s.setCfg v) ∧
    writeReg v s .totalLo = .next (s.setTotalLo v) ∧ writeReg v s .totalHi = .next (s.setTotalHi v) ∧
    ∀ k, writeReg v s (.buf k) = .next (s.storeBuf k v) := by
  simp [writeReg, hb]

theorem readUnlessBusy_busy {s : State} (hb : s.busy = true) (v : Word) :
    readUnlessBusy s v = (s.freeWord, s.drew) := by
  simp only [readUnlessBusy, hb, if_true]

/-- While BUSY = 1 the result registers read as a free value, whichever it is of the six (R38). -/
theorem readReg_result_busy {s : State} (hb : s.busy = true) {r : Reg}
    (hr : r ∈ [Reg.countLo, .countHi, .stateA, .stateB, .stateC, .stateD]) :
    readReg s r = (s.freeWord, s.drew) := by
  simp only [List.mem_cons, List.not_mem_nil, or_false] at hr
  rcases hr with rfl | rfl | rfl | rfl | rfl | rfl <;> exact readUnlessBusy_busy hb _

/-- The offsets of COUNT and STATE_A..D in the map (R61). -/
theorem resultOffsets_map : ∀ off ∈ [0x0018, 0x001C, 0x0020, 0x0024, 0x0028, 0x002C],
    portHas off 4 = true ∧ off < 0x8000 ∧
      regAt 0 off ∈ [Reg.countLo, .countHi, .stateA, .stateB, .stateC, .stateD] := by
  decide

theorem readReg_status_busy {s : State} (hb : s.busy = true) :
    readReg s .status = (s.statusWith (s.freeWord.extractLsb' 0 2), s.drew) := by
  simp only [readReg, readStatus, hb, if_true]

theorem readReg_cfg (s : State) : readReg s .cfg = (if s.useTotal then 1#32 else 0#32, s) := by
  cases h : s.useTotal <;> simp [readReg, h]

theorem readReg_buf_written {s : State} {k : Nat} {w : Word} (h : s.bufWord k = some w) :
    readReg s (.buf k) = (w, s) := by
  simp only [readReg, readBuf, h]

theorem readReg_buf_unwritten {s : State} {k : Nat} (h : s.isWritten k = false) :
    readReg s (.buf k) = (s.freeWord, s.drew) := by
  simp [readReg, readBuf, State.bufWord, h]

/-! ### The halves of TOTAL -/

/-- Two words side by side, as numbers. -/
theorem word_append_eq_ofNat (x y : Word) : x ++ y = BitVec.ofNat 64 (x.toNat * 2 ^ 32 + y.toNat) := by
  apply BitVec.eq_of_toNat_eq
  have hx := x.isLt
  have hy := y.isLt
  rw [BitVec.toNat_append, ← Nat.shiftLeft_add_eq_or_of_lt hy, Nat.shiftLeft_eq, BitVec.toNat_ofNat,
    Nat.mod_eq_of_lt (by omega)]

theorem toNat_high_half (x : DWord) : (x.extractLsb' 32 32).toNat = x.toNat / 2 ^ 32 := by
  have hx := x.isLt
  rw [BitVec.extractLsb'_toNat, Nat.shiftRight_eq_div_pow, Nat.mod_eq_of_lt (by omega)]

theorem toNat_low_half (x : DWord) : (x.extractLsb' 0 32).toNat = x.toNat % 2 ^ 32 := by
  rw [BitVec.extractLsb'_toNat, Nat.shiftRight_zero]

/-! ### What a completion does to OVF, the digest registers and COUNT -/

/-- The zero-length fragment that ends CHUNK overflows only where the chunk itself has: its COUNT is the chunk's sum
reduced modulo 2^64 (R161, R187). -/
theorem overflows_of_overflows_added {c : DWord} {L : Nat} (h : overflows (c + BitVec.ofNat 64 L) 0 = true) :
    overflows c L = true := by
  simp only [overflows, decide_eq_true_eq, BitVec.toNat_add, BitVec.toNat_ofNat] at h ⊢
  omega

/-- A message of one buffer cannot overflow (R190). -/
theorem overflows_zero_lenBytes (s : State) : overflows 0#64 s.lenBytes = false := by
  have hlen := s.len.isLt
  simp only [overflows, State.lenBytes, BitVec.toNat_ofNat, decide_eq_false_iff_not]
  omega

/-- A body that sets OVF is one of the three that add LEN to a running COUNT, and the sum reaches 2^61 (R27, R161). -/
theorem BodyEffect.ovf_caused {s u : State} {i : Instr} (h : BodyEffect s i u) (hs : s.ovf = false)
    (hu : u.ovf = true) :
    overflows s.count s.lenBytes = true ∧ (i = .chunk ∨ i = .absorb ∨ i = .final) := by
  cases h with
  | nop => simp [hs] at hu
  | init => simp [hs] at hu
  | absorbed hi _ _ _ =>
    refine ⟨by simpa [hs] using hu, ?_⟩
    rcases hi with rfl | ⟨rfl, -⟩
    · exact .inr (.inl rfl)
    · exact .inl rfl
  | reached _ _ _ _ _ =>
    simp only [finalizeBytes_ovf, addBytes_ovf, addBytes_count, setDigest_ovf, setDigest_count, hs, Bool.false_or,
      Bool.or_eq_true] at hu
    exact ⟨hu.elim id overflows_of_overflows_added, .inl rfl⟩
  | finalised hi _ =>
    refine ⟨by simpa [hs] using hu, ?_⟩
    rcases hi with rfl | ⟨rfl, -⟩
    · exact .inr (.inr rfl)
    · exact .inl rfl
  | oneshot _ => simp [hs, overflows_zero_lenBytes] at hu
  | block _ => simp [hs] at hu

theorem BodyEffect.eq_of_nop {s u : State} (h : BodyEffect s .nop u) : u = s := by
  cases h with
  | nop => rfl
  | absorbed hi => simp at hi
  | finalised hi => simp at hi

theorem BodyEffect.count_of_block {s u : State} (h : BodyEffect s .block u) : u.count = s.count := by
  cases h with
  | absorbed hi => simp at hi
  | finalised hi => simp at hi
  | block _ => exact setDigest_count _ _

theorem BodyEffect.ne_nop {s u : State} {i : Instr} (h : BodyEffect s i u) (hne : u ≠ s) : i ≠ .nop :=
  fun hi => hne (hi ▸ h).eq_of_nop

theorem BodyEffect.ne_block {s u : State} {i : Instr} (h : BodyEffect s i u) (hne : u.count ≠ s.count) : i ≠ .block :=
  fun hi => hne (hi ▸ h).count_of_block

/-! ### What a host turn does to the core -/

/-- Accepting a command leaves the digest registers and COUNT to its completion (R181). -/
theorem HostTurn.digest_count {s t : State} (h : HostTurn s t) : t.digest = s.digest ∧ t.count = s.count := by
  cases h with
  | same hc => exact ⟨hc.digest, hc.count⟩
  | raised r c hr ht =>
    subst ht
    exact ⟨(raiseError_digest _ _).trans hr.digest, (raiseError_count _ _).trans hr.count⟩
  | accepted r v i _ _ _ hr _ _ ht =>
    rw [acceptEffect_eq] at ht
    subst ht
    exact ⟨hr.digest, hr.count⟩
  | operand _ _ hd hc => exact ⟨hd, hc⟩

/-- INIT or ONESHOT has just been accepted: it is pending and the three error flags are clear (R181, R254). -/
structure Recovered (s t : State) : Prop where
  idle : s.busy = false
  pending : t.pending = some .init ∨ t.pending = some .oneshot
  err : t.err = false
  errCode : t.errCode = .none
  ovf : t.ovf = false

/-- The error flags are as they were, but for the record of a first error. -/
structure FlagsKept (s t : State) : Prop where
  err : s.err = true → t.err = true
  errCode : s.err = true → t.errCode = s.errCode
  ovf : t.ovf = s.ovf

theorem startsMessage_iff (i : Instr) : startsMessage i = true ↔ i = .init ∨ i = .oneshot := by
  cases i <;> simp [startsMessage]

/-- The acceptance of a command clears all the error flags or touches none, by whether it starts a message (R181). -/
theorem acceptEffect_flags {i : Instr} {s r : State} (hb : s.busy = false) (hr : CoreSame s r) :
    FlagsKept s (acceptEffect i r) ∨ Recovered s (acceptEffect i r) := by
  rw [acceptEffect_eq]
  cases hm : startsMessage i with
  | false => exact .inl ⟨by simp [hr.err], by simp [hr.errCode], by simp [hr.ovf]⟩
  | true => exact .inr ⟨hb, by simpa using (startsMessage_iff i).mp hm, by simp, by simp, by simp⟩

theorem HostTurn.flags {s t : State} (h : HostTurn s t) : FlagsKept s t ∨ Recovered s t := by
  cases h with
  | same hc => exact .inl ⟨fun he => hc.err.trans he, fun _ => hc.errCode, hc.ovf⟩
  | raised r c hr ht =>
    subst ht
    refine .inl ⟨fun _ => raiseError_err _ _, fun he => ?_, (raiseError_ovf _ _).trans hr.ovf⟩
    rw [raiseError_errCode, hr.err, he, hr.errCode]
    simp
  | accepted r v i hb _ _ hr _ _ ht => exact ht ▸ acceptEffect_flags hb hr
  | operand _ _ _ _ _ _ he hec ho => exact .inl ⟨fun h1 => he.trans h1, fun _ => hec, ho⟩

/-- The host's write to CMD has had a command accepted that is not NOP, and it is pending (R181). -/
def Issued (s t : State) : Prop :=
  ∃ v i, s.hostStmt = some (.wr 0x0000 4 v) ∧ decode v = .ok i ∧ i ≠ .nop ∧ acceptance i s = .accepted ∧
    t.pending = some i

/-- A host turn leaves the pending command alone, or finds the core idle and issues one. -/
theorem HostTurn.pending {s t : State} (h : HostTurn s t) :
    t.pending = s.pending ∨ s.busy = false ∧ Issued s t := by
  cases h with
  | same hc => exact .inl hc.pending
  | raised r c hr ht => exact .inl (ht ▸ (raiseError_pending _ _).trans hr.pending)
  | accepted r v i hb hs hd hr ha hi ht =>
    refine .inr ⟨hb, v, i, hs, hd, hi, ha, ?_⟩
    rw [ht, acceptEffect_eq]
  | operand hb _ _ _ _ hp => exact .inl (hp.trans ((not_busy_iff s).mp hb).symm)

theorem busy_congr {s t : State} (h : t.pending = s.pending) : t.busy = s.busy := by
  simp only [State.busy, h]

@[simp] theorem endCommand_busy (s : State) : s.endCommand.busy = false :=
  (not_busy_iff _).mpr (endCommand_pending s)

@[simp] theorem resetCore_busy (s : State) : s.resetCore.busy = false :=
  (not_busy_iff _).mpr (resetCore_pending s)

/-! ### The layout of STATUS -/

/-- Fields of the widths of STATUS, side by side, each stand at their own positions (R28). -/
theorem extractLsb'_status_fields (ovf err busy : BitVec 1) (code : BitVec 3) (fsm : BitVec 2) :
    (0#24 ++ ovf ++ code ++ err ++ fsm ++ busy).extractLsb' 0 1 = busy ∧
    (0#24 ++ ovf ++ code ++ err ++ fsm ++ busy).extractLsb' 1 2 = fsm ∧
    (0#24 ++ ovf ++ code ++ err ++ fsm ++ busy).extractLsb' 3 1 = err ∧
    (0#24 ++ ovf ++ code ++ err ++ fsm ++ busy).extractLsb' 4 3 = code ∧
    (0#24 ++ ovf ++ code ++ err ++ fsm ++ busy).extractLsb' 7 1 = ovf ∧
    (0#24 ++ ovf ++ code ++ err ++ fsm ++ busy).extractLsb' 8 24 = 0#24 := by
  refine ⟨?_, ?_, ?_, ?_, ?_, ?_⟩
  all_goals repeat rw [BitVec.extractLsb'_append_eq_of_le (by decide)]
  iterate 5 exact BitVec.extractLsb'_append_eq_right
  exact BitVec.extractLsb'_eq_self

/-! ### The obligations -/

/-- Settles O18: each field is a slice of the concatenation at its own position. -/
theorem statusLayout : Obligations.StatusLayout :=
  ⟨fun _ _ => extractLsb'_status_fields _ _ _ _ _, ⟨rfl, rfl, rfl, rfl, rfl, rfl⟩, rfl, rfl, rfl, rfl⟩

/-- Settles O24: the write is `storeBuf`, whose laws say the rest. -/
theorem bufferWriteStoresOneWord : Obligations.BufferWriteStoresOneWord := by
  intro s k v hb hk
  obtain ⟨-, -, -, -, hbuf⟩ := writeReg_idle ((hostNext_busy s).trans hb) v
  refine ⟨s.hostNext.storeBuf k v, ?_, bufWord_storeBuf_self _ k v, fun j hj => ?_, fun a ha => ?_,
    fun j hj => ?_, rfl⟩
  · rw [hostWrite_eq_writeReg (portHas_buf hk) (regAt_buf_of hk), hbuf]
  · exact lookupKey_storeWord_lane s.mem _ v hj
  · exact lookupKey_storeWord_other v ha
  · refine ⟨(bufWord_storeBuf_other _ v hj).trans (hostNext_bufWord s j), ?_⟩
    rw [isWritten_storeBuf, decide_eq_false hj, Bool.false_or]
    rfl

/-- Settles O42: an issue touches the flags and the pending command, a completion is framed by `body_frame`. -/
theorem commandsNeverModifyOperands : Obligations.CommandsNeverModifyOperands := by
  intro i s t h
  rcases exec_next h with ⟨-, rfl | ⟨c, -, rfl⟩ | ⟨-, -, rfl⟩⟩ | ⟨-, u, hu, rfl⟩
  · simp
  · simp
  · simp [acceptEffect_eq]
  · have hf := body_frame hu
    simp [hf.mem, hf.written, hf.len, hf.useTotal, hf.total, hf.chunk, hf.draws, hf.prog, hf.hpc, hf.vars, hf.turns]

/-- Settles O49: a host turn keeps the flags or is the recovery, and a completion is framed by `body_frame`. -/
theorem firstErrorKeptUntilRecovery : Obligations.FirstErrorKeptUntilRecovery := by
  intro s t he h
  rcases step_next h with ⟨-, hh⟩ | ⟨-, -, rfl⟩ | ⟨-, i, u, -, hu, rfl⟩ | ⟨hT, -⟩
  · rcases (host_turn hh).flags with hk | hr
    · exact .inl ⟨hk.err he, hk.errCode he⟩
    · exact .inr (.inr ⟨hr.idle, hr.pending, hr.err, hr.errCode, hr.ovf⟩)
  · exact .inl ⟨he, rfl⟩
  · have hf := body_frame hu
    exact .inl ⟨by simp [hf.err, he], by simp [hf.errCode]⟩
  · exact .inr (.inl hT)

/-- Settles O50: of the turns only a completion can set OVF, and a completion never clears it. -/
theorem overflowFlagStickyAndCaused : Obligations.OverflowFlagStickyAndCaused := by
  intro s t h
  rcases step_next h with ⟨-, hh⟩ | ⟨-, -, rfl⟩ | ⟨hT, i, u, hp, hu, rfl⟩ | ⟨hT, rfl⟩
  · rcases (host_turn hh).flags with hk | hr
    · rw [hk.ovf]
      exact ⟨fun h1 h0 => by simp [h1] at h0, fun h0 h1 => by simp [h0] at h1⟩
    · exact ⟨fun _ _ => .inr ⟨hr.idle, hr.pending⟩, fun _ h1 => by simp [hr.ovf] at h1⟩
  · rw [popTurn_ovf]
    exact ⟨fun h1 h0 => by simp [h1] at h0, fun h0 h1 => by simp [h0] at h1⟩
  · rw [endCommand_ovf]
    refine ⟨fun h1 h0 => ?_, fun h0 h1 => ?_⟩
    · simp [(body_frame hu).ovf h1] at h0
    · obtain ⟨hof, hi⟩ := (body_next hu).ovf_caused h0 h1
      exact ⟨hT, of_decide_eq_true hof, by simpa [hp] using hi⟩
  · exact ⟨fun _ _ => .inl hT, fun _ h1 => by simp at h1⟩

/-- Settles O51: a host turn leaves both alone, and the bodies of NOP and BLOCK show which completions do not. -/
theorem onlyCompletionsWriteDigestAndCount : Obligations.OnlyCompletionsWriteDigestAndCount := by
  intro s t h
  rcases step_next h with ⟨-, hh⟩ | ⟨-, -, rfl⟩ | ⟨hT, i, u, hp, hu, rfl⟩ | ⟨hT, -⟩
  · obtain ⟨hd, hc⟩ := (host_turn hh).digest_count
    exact ⟨fun hne => absurd hd hne, fun hne => absurd hc hne⟩
  · exact ⟨fun hne => absurd rfl hne, fun hne => absurd rfl hne⟩
  · have he := body_next hu
    rw [endCommand_digest, endCommand_count]
    refine ⟨fun hne => .inr ⟨hT, i, hp, he.ne_nop (mt (congrArg State.digest) hne), endCommand_busy u⟩, fun hne => ?_⟩
    exact .inr ⟨hT, i, hp, he.ne_nop (mt (congrArg State.count) hne), he.ne_block hne, endCommand_busy u⟩
  · exact ⟨fun _ => .inl hT, fun _ => .inl hT⟩

/-- Settles O54: a host turn keeps the pending command or issues one; a completion and a reset leave BUSY = 0. -/
theorem busyFromAcceptanceToCompletion : Obligations.BusyFromAcceptanceToCompletion := by
  intro s t h
  rcases step_next h with ⟨hT, hh⟩ | ⟨hT, hp, rfl⟩ | ⟨hT, i, u, -, -, rfl⟩ | ⟨hT, rfl⟩
  · rcases (host_turn hh).pending with hk | ⟨hb, v, i, hs, hd, hi, ha, hp⟩
    · rw [busy_congr hk]
      exact ⟨fun h0 h1 => by simp [h0] at h1, fun _ _ => hk, fun h1 h0 => by simp [h1] at h0⟩
    · exact ⟨fun _ _ => ⟨v, i, hT, hs, hd, hi, ha, hp⟩, fun h1 => by simp [hb] at h1,
        fun h1 => by simp [hb] at h1⟩
  · have hb : s.busy = false := (not_busy_iff s).mpr hp
    rw [(popTurn_same s).busy_eq]
    exact ⟨fun _ h1 => by simp [hb] at h1, fun h1 => by simp [hb] at h1, fun h1 => by simp [hb] at h1⟩
  · exact ⟨fun _ h1 => by simp at h1, fun _ h1 => by simp at h1, fun _ _ => .inr hT⟩
  · exact ⟨fun _ h1 => by simp at h1, fun _ h1 => by simp at h1, fun _ _ => .inl hT⟩

/-- Settles O16: the fields of `State.powerOn`. -/
theorem resetStateValues : Obligations.ResetStateValues := fun c =>
  ⟨rfl, rfl, rfl, rfl, rfl, rfl, rfl, rfl, rfl, rfl, rfl, State.powerOn_chunkBytes c, fun _ => rfl, rfl⟩

/-- Settles O20: each access is the read of the register at its offset, and the register says what it answers. -/
theorem unspecifiedReadsAreFreeValues : Obligations.UnspecifiedReadsAreFreeValues := by
  intro s dst
  have hread {k : Nat} (hk : 4 * k < s.chunkBytes) :=
    hostRead_eq_readReg (s := s) (portHas_buf hk) (regAt_buf_of hk) dst
  refine ⟨fun hb => ?_, fun k hk hw => ?_⟩
  · have hb' : s.hostNext.busy = true := (hostNext_busy s).trans hb
    refine ⟨fun off hoff => ?_, ?_, hostRead_low rfl (by decide) dst, ?_, hostRead_low rfl (by decide) dst,
      hostRead_low rfl (by decide) dst, hostRead_low rfl (by decide) dst, fun k w hk hw => ?_⟩
    · obtain ⟨hp, hlt, hr⟩ := resultOffsets_map off hoff
      rw [hostRead_low hp hlt, readReg_result_busy hb' hr]; rfl
    · rw [hostRead_low rfl (by decide), show regAt 0 0x0004 = .status from rfl, readReg_status_busy hb']; rfl
    · rw [hostRead_low rfl (by decide), show regAt 0 0x000C = .cfg from rfl, readReg_cfg]; rfl
    · rw [hread hk, readReg_buf_written ((hostNext_bufWord s k).trans hw)]
  · rw [hread hk, readReg_buf_unwritten (show s.hostNext.isWritten k = false from hw)]; rfl

/-- Settles O23: each access is the write of the register at its offset; the halves of TOTAL as numbers. -/
theorem operandRegisterWrites : Obligations.OperandRegisterWrites := by
  intro s v hb
  obtain ⟨hlen, hcfg, hlo, hhi, -⟩ := writeReg_idle ((hostNext_busy s).trans hb) v
  rw [State.setTotalLo, word_append_eq_ofNat, toNat_high_half] at hlo
  rw [State.setTotalHi, word_append_eq_ofNat, toNat_low_half] at hhi
  exact ⟨(hostWrite_low rfl (by decide) v).trans hlen, (hostWrite_low rfl (by decide) v).trans hcfg,
    (hostWrite_low rfl (by decide) v).trans hlo, (hostWrite_low rfl (by decide) v).trans hhi⟩

/-- Settles O47: an empty buffer, no error, no pending command and no variables meet every clause. -/
theorem invariantHoldsAtReset : Obligations.InvariantHoldsAtReset := by
  have h : ∀ (c : Fin 512) (prog : List Stmt) (turns : List Turn),
      ({ State.powerOn c with prog := prog, turns := turns } : State).Inv :=
    fun _ _ _ => ⟨rfl, rfl, rfl, rfl, rfl, rfl⟩
  exact ⟨h Config.defaultChunk [] [], h⟩

end Sys2Proof.Machine
end

section
/-! PROOFS. The register port (spec/20_memory.md): which accesses it has, what an idle core's registers read as, the
offsets at which a write does nothing, the byte order of the digest, and the operands, still while BUSY = 1. -/

namespace Sys2Proof.Machine

/-! ### The accesses of the port -/

/-- The one access form of R60 and R62. -/
theorem portHas_iff (off n : Nat) : portHas off n = true ↔ n = 4 ∧ off % 4 = 0 ∧ off < 0x10000 := by
  simp [portHas, and_assoc]

theorem hostWrite_refused {off n : Nat} (hp : ¬ portHas off n = true) (v : Word) (s : State) :
    hostWrite off n v s = .refused .notInHardware :=
  if_neg hp

theorem hostRead_refused {off n : Nat} (hp : ¬ portHas off n = true) (dst : Option Nat) (s : State) :
    hostRead off n dst s = .refused .notInHardware :=
  if_neg hp

/-! ### Reads while BUSY = 0 -/

theorem readReg_status_idle {s : State} (hb : s.busy = false) : readReg s .status = (s.statusWith s.fsm.bits, s) := by
  simp [readReg, readStatus, hb]

theorem readUnlessBusy_idle {s : State} (hb : s.busy = false) (v : Word) : readUnlessBusy s v = (v, s) := by
  simp [readUnlessBusy, hb]

/-- While BUSY = 0 the result registers read their current values (R38, R64). -/
theorem readReg_result_idle {s : State} (hb : s.busy = false) :
    readReg s .countLo = (s.count.extractLsb' 0 32, s) ∧ readReg s .countHi = (s.count.extractLsb' 32 32, s) ∧
    readReg s .stateA = (s.digest.a, s) ∧ readReg s .stateB = (s.digest.b, s) ∧
    readReg s .stateC = (s.digest.c, s) ∧ readReg s .stateD = (s.digest.d, s) :=
  ⟨readUnlessBusy_idle hb _, readUnlessBusy_idle hb _, readUnlessBusy_idle hb _, readUnlessBusy_idle hb _,
    readUnlessBusy_idle hb _, readUnlessBusy_idle hb _⟩

/-- A read below the buffer's window, from the register's own answer when that draws no free value. -/
theorem hostRead_low_of_readReg {s : State} {off : Nat} {v : Word} (hp : portHas off 4 = true) (hlt : off < 0x8000)
    (hr : readReg s.hostNext (regAt 0 off) = (v, s.hostNext)) (dst : Option Nat) :
    hostRead off 4 dst s = .next (s.hostNext.bindDst dst v) := by
  rw [hostRead_low hp hlt, hr]

/-! ### Offsets at which a write does nothing -/

/-- Between CHUNK_SIZE and the buffer, and above the buffer, every offset is reserved (R61). -/
theorem regAt_reserved {cb off : Nat} (h : (0x0034 ≤ off ∧ off < 0x8000) ∨ 0x8000 + cb ≤ off) :
    regAt cb off = .reserved := by
  have hw : ¬ (0x8000 ≤ off ∧ off < 0x8000 + cb) := by omega
  simp only [regAt, if_neg hw]
  split
  case h_14 => rfl
  all_goals omega

/-- A register that BUSY does not guard is read-only or reserved, and ignores a write (R63). -/
theorem writeReg_unguarded {r : Reg} (h : busyGuarded r = false) (v : Word) (s : State) : writeReg v s r = .next s := by
  cases r with
  | cmd | len | cfg | totalLo | totalHi | buf => cases h
  | status | countLo | countHi | stateA | stateB | stateC | stateD | chunkSize | reserved => rfl

/-- The offsets of STATUS, COUNT, STATE_A..D and CHUNK_SIZE in the map (R61). -/
theorem readOnlyOffsets_map : ∀ off < 0x0034, off % 4 = 0 → off = 0x0004 ∨ 0x0018 ≤ off →
    busyGuarded (regAt 0 off) = false := by
  decide

/-! ### Operands -/

/-- The operand registers, the buffer with its written flags and the chunk size are as they were. -/
structure OperandsKept (s t : State) : Prop where
  len : t.len = s.len
  useTotal : t.useTotal = s.useTotal
  total : t.total = s.total
  mem : t.mem = s.mem
  written : t.written = s.written
  chunk : t.chunk = s.chunk

theorem CoreSame.operandsKept {s t : State} (h : CoreSame s t) : OperandsKept s t :=
  ⟨h.len, h.useTotal, h.total, h.mem, h.written, h.chunk⟩

/-- The port drops every operand write of a busy core and accepts no command from it (R64, R72). -/
theorem HostTurn.operandsKept {s t : State} (h : HostTurn s t) (hb : s.busy = true) : OperandsKept s t := by
  cases h with
  | same hc => exact hc.operandsKept
  | raised r c hr ht =>
    subst ht
    exact ⟨(raiseError_len _ _).trans hr.len, (raiseError_useTotal _ _).trans hr.useTotal,
      (raiseError_total _ _).trans hr.total, (raiseError_mem _ _).trans hr.mem,
      (raiseError_written _ _).trans hr.written, (raiseError_chunk _ _).trans hr.chunk⟩
  | accepted r v i hidle => simp [hb] at hidle
  | operand hidle => simp [hb] at hidle

/-- A completion reads its operands and leaves them alone. -/
theorem completion_operandsKept {s u : State} {i : Instr} (h : bodyOf i s.popTurn = .next u) :
    OperandsKept s u.endCommand := by
  have hf := body_frame h
  exact ⟨by simp [hf.len], by simp [hf.useTotal], by simp [hf.total], by simp [hf.mem], by simp [hf.written],
    by simp [hf.chunk]⟩

/-- A step of a busy core other than a reset is a host access or the completion, and neither touches the operands. -/
theorem step_operandsKept {s t : State} (hb : s.busy = true) (hr : s.turn ≠ .reset) (h : step s = .next t) :
    OperandsKept s t := by
  rcases step_next h with ⟨-, hh⟩ | ⟨-, -, rfl⟩ | ⟨-, i, u, -, hu, rfl⟩ | ⟨hT, -⟩
  · exact (host_turn hh).operandsKept hb
  · exact (popTurn_same s).operandsKept
  · exact completion_operandsKept hu
  · exact absurd hT hr

/-! ### The obligations -/

/-- Settles O55: the six fields of `OperandsKept`. -/
theorem operandsStableWhileBusy : Obligations.OperandsStableWhileBusy := by
  intro s t hb hr h
  have hk := step_operandsKept hb hr h
  exact ⟨hk.len, hk.useTotal, hk.total, hk.mem, hk.written, hk.chunk⟩

/-- Settles O19: each access is the read of the register at its offset, and the register answers its value. -/
theorem idleReadsReturnTheRegisters : Obligations.IdleReadsReturnTheRegisters := by
  refine ⟨fun s v => ⟨rfl, fun x => rfl⟩, fun s dst hb => ?_⟩
  have hb' : s.hostNext.busy = false := (hostNext_busy s).trans hb
  obtain ⟨hcountLo, hcountHi, hA, hB, hC, hD⟩ := readReg_result_idle hb'
  have low {off : Nat} {v : Word} (hp : portHas off 4 = true) (hlt : off < 0x8000)
      (hr : readReg s.hostNext (regAt 0 off) = (v, s.hostNext)) := hostRead_low_of_readReg hp hlt hr dst
  refine ⟨low rfl (by decide) rfl, low rfl (by decide) (readReg_status_idle hb'), low rfl (by decide) rfl,
    low rfl (by decide) (readReg_cfg _), low rfl (by decide) rfl, low rfl (by decide) rfl,
    low rfl (by decide) hcountLo, low rfl (by decide) hcountHi, low rfl (by decide) hA, low rfl (by decide) hB,
    low rfl (by decide) hC, low rfl (by decide) hD, low rfl (by decide) rfl, fun k w hk hw => ?_⟩
  rw [hostRead_eq_readReg (portHas_buf hk) (regAt_buf_of hk),
    readReg_buf_written ((hostNext_bufWord s k).trans hw)]

/-- Settles O21: the map says which register stands at the offset, and BUSY guards none of these. -/
theorem reservedAndReadOnlyOffsets : Obligations.ReservedAndReadOnlyOffsets := by
  intro s off dst v h4 hlt
  have hp : portHas off 4 = true := (portHas_iff off 4).mpr ⟨rfl, h4, hlt⟩
  refine ⟨fun hres => ?_, fun hro => ?_, hostRead_low_of_readReg rfl (by decide) rfl dst⟩
  · have hr := regAt_reserved hres
    exact ⟨hostRead_eq_readReg hp hr dst, (hostWrite_eq_writeReg hp hr v).trans (writeReg_unguarded rfl v _)⟩
  · rw [hostWrite_low hp (by omega)]
    exact writeReg_unguarded (readOnlyOffsets_map off (by omega) h4 (by omega)) v _

/-- Settles O22: each of the three forms is one the port does not have. -/
theorem otherAccessFormsRefused : Obligations.OtherAccessFormsRefused := by
  intro s off n v dst h
  have hp : ¬ portHas off n = true := by
    rw [portHas_iff]
    omega
  exact ⟨hostWrite_refused hp v s, hostRead_refused hp dst s⟩

/-- Settles O25: the digest bytes are those of the four words in turn, four to a word. -/
theorem digestByteOrder : Obligations.DigestByteOrder := by
  intro x j hj
  have hbytes : digestBytes x = [x.a, x.b, x.c, x.d].flatMap bytesOfWord := rfl
  have hlane (r : Nat) : (digestBytes x)[4 * r + j]? = [x.a, x.b, x.c, x.d][r]?.map (fun w => byteLane w j) :=
    hbytes ▸ flatMap_bytesOfWord_get _ hj
  have h0 := hlane 0
  rw [Nat.mul_zero, Nat.zero_add] at h0
  exact ⟨h0, hlane 1, hlane 2, hlane 3, rfl⟩

end Sys2Proof.Machine
end

section
/-! PROOFS. The encoding (spec/30_encoding.md): the command word and its decoder, the host's labels and branches, and
the expansions of the pseudo-instructions. -/

namespace Sys2Proof

/-! ### The fields of a command word -/

/-- RSVD and OP are the whole word (R90). -/
theorem rsvdField_append_opField (v : Word) : rsvdField v ++ opField v = v :=
  (BitVec.extractLsb'_append_extractLsb'_eq_extractLsb' (start₁ := 0) (len₁ := 4) rfl).trans
    BitVec.extractLsb'_eq_self

theorem toNat_opField (v : Word) : (opField v).toNat = v.toNat % 16 := by
  rw [opField, BitVec.extractLsb'_toNat, Nat.shiftRight_zero]

theorem toNat_rsvdField (v : Word) : (rsvdField v).toNat = v.toNat / 16 := by
  have hv := v.isLt
  rw [rsvdField, BitVec.extractLsb'_toNat, Nat.shiftRight_eq_div_pow, Nat.mod_eq_of_lt (by omega)]

/-! ### The decoder -/

/-- A command's word is decoded to it (R92). -/
theorem decode_encode (i : Instr) : decode (encode i) = .ok i := by
  cases i <;> rfl

theorem fields_of_decode {v : Word} {i : Instr} (h : decode v = .ok i) :
    rsvdField v = 0#28 ∧ opField v = opcode i := by
  rw [decode] at h
  split at h
  case isTrue => cases h
  case isFalse hr =>
    refine ⟨not_not.mp hr, BitVec.eq_of_toNat_eq ?_⟩
    split at h <;> cases h
    all_goals assumption

theorem eq_encode_of_fields {v : Word} {i : Instr} (hr : rsvdField v = 0#28) (ho : opField v = opcode i) :
    v = encode i := by
  rw [← rsvdField_append_opField v, hr, ho, encode]

/-- The decoder accepts a command's own two fields and no others (R92, R93). -/
theorem decode_eq_ok_iff (v : Word) (i : Instr) : decode v = .ok i ↔ rsvdField v = 0#28 ∧ opField v = opcode i :=
  ⟨fields_of_decode, fun ⟨hr, ho⟩ => eq_encode_of_fields hr ho ▸ decode_encode i⟩

/-- Every command is well formed: it has no field to be out of range (R91). -/
theorem Instr.wf_eq_true (i : Instr) : i.wf = true := by
  cases i <;> rfl

/-- Settles O2: the two fields as numbers. -/
theorem wordSelectsItsOpcode : Obligations.WordSelectsItsOpcode := by
  intro v i
  rw [decode_eq_ok_iff, ← BitVec.toNat_inj, ← BitVec.toNat_inj, toNat_rsvdField, toNat_opField]
  cases i <;> rfl

/-- Settles O3: a word is its two fields, and they are those of the command it decodes to. -/
theorem decodeAgreesWithEncode : Obligations.DecodeAgreesWithEncode := by
  refine ⟨fun i => ⟨i.wf_eq_true, decode_encode i⟩, fun v i h => ?_⟩
  obtain ⟨hr, ho⟩ := fields_of_decode h
  exact eq_encode_of_fields hr ho

/-- Settles O1: each of the seven words is the encoded word of its command. -/
theorem commandWordsDecode : Obligations.CommandWordsDecode :=
  ⟨decode_encode .nop, decode_encode .init, decode_encode .chunk, decode_encode .absorb, decode_encode .final,
    decode_encode .oneshot, decode_encode .block⟩

namespace Machine

/-! ### The words of LOADMSG -/

/-- The zero bytes that LOADMSG counts behind `n` message bytes, up to the end of their last word (R96). -/
def zerosAfter (n : Nat) : List Byte := List.replicate (4 * wordsFor n - n) 0#8

theorem zerosAfter_add_four (n : Nat) : zerosAfter (n + 4) = zerosAfter n := by
  have h : 4 * wordsFor (n + 4) - (n + 4) = 4 * wordsFor n - n := by
    simp only [wordsFor]
    omega
  rw [zerosAfter, zerosAfter, h]

theorem length_append_zerosAfter (bytes : List Byte) :
    (bytes ++ zerosAfter bytes.length).length = 4 * wordsFor bytes.length := by
  rw [List.length_append, zerosAfter, List.length_replicate, wordsFor]
  omega

/-- The words of LOADMSG are the packer's words of the message with its zero bytes (R150). -/
theorem msgWords_eq_wordsOfBytes (bytes : List Byte) :
    msgWords bytes = wordsOfBytes (bytes ++ zerosAfter bytes.length) := by
  induction bytes using msgWords.induct with
  | case1 => rfl
  | case2 | case3 | case4 => simp [msgWords, wordsOfBytes, zerosAfter, wordsFor, List.replicate_succ]
  | case5 b0 b1 b2 b3 r ih =>
    rw [msgWords, ih, ← zerosAfter_add_four r.length]
    rfl

theorem msgWords_length (bytes : List Byte) : (msgWords bytes).length = wordsFor bytes.length := by
  rw [msgWords_eq_wordsOfBytes, wordsOfBytes_length, length_append_zerosAfter, Nat.mul_div_cancel_left _ (by decide)]

theorem flatMap_msgWords (bytes : List Byte) :
    (msgWords bytes).flatMap bytesOfWord = bytes ++ zerosAfter bytes.length := by
  rw [msgWords_eq_wordsOfBytes, flatMap_wordsOfBytes]
  rw [length_append_zerosAfter, Nat.mul_mod_right]

/-- Each word is written to the buffer word of its own index (R96). -/
theorem loadWords_eq_mapIdx (k : Nat) (ws : List Word) :
    loadWords k ws = ws.mapIdx (fun j w => asmWr (.buf (k + j)) w) := by
  induction ws generalizing k with
  | nil => rfl
  | cons w r ih => simp [loadWords, ih, List.mapIdx_cons, Nat.add_assoc, Nat.add_comm 1]

/-- Settles O26: LOADMSG writes the words of the message with its zero bytes, by index. -/
theorem loadMsgWordsHoldTheMessage : Obligations.LoadMsgWordsHoldTheMessage := by
  intro bytes
  refine ⟨msgWords_length bytes, flatMap_msgWords bytes, ?_, fun k w hw => ?_, fun w => rfl⟩
  · rw [asmLoadMsg, loadWords_eq_mapIdx, List.length_mapIdx]
    exact msgWords_length bytes
  · rw [asmLoadMsg, loadWords_eq_mapIdx, List.getElem?_mapIdx, hw, Nat.zero_add]
    rfl

/-! ### The host's labels and branches -/

/-- A label's position is the first statement that is the label (R95). -/
theorem labelAt_eq_findIdx? (l : Nat) (prog : List Stmt) : labelAt l prog = prog.findIdx? (· = .label l) := by
  induction prog with
  | nil => rfl
  | cons x r ih => simp [labelAt, List.findIdx?_cons, ih]

theorem labelAt_eq_some {l k : Nat} {prog : List Stmt} (h : labelAt l prog = some k) :
    prog[k]? = some (.label l) ∧ ∀ j, j < k → prog[j]? ≠ some (.label l) := by
  rw [labelAt_eq_findIdx?, List.findIdx?_eq_some_iff_getElem] at h
  obtain ⟨hk, hlab, hfirst⟩ := h
  refine ⟨List.getElem?_eq_some_iff.mpr ⟨hk, by simpa using hlab⟩, fun j hj hc => ?_⟩
  obtain ⟨hlt, hj'⟩ := List.getElem?_eq_some_iff.mp hc
  exact hfirst j hj (by simpa using hj')

theorem labelAt_isSome (l : Nat) (prog : List Stmt) : (labelAt l prog).isSome = true ↔ .label l ∈ prog := by
  simp [labelAt_eq_findIdx?]

theorem hostStep_label {s : State} {l : Nat} (h : s.hostStmt = some (.label l)) : hostStep s = .next s.hostNext := by
  rw [hostStep, h]

theorem hostStep_bnz {s : State} {x l : Nat} {mask : Word} (h : s.hostStmt = some (.bnz x mask l)) :
    hostStep s = hostBranch x mask l s := by
  rw [hostStep, h]

theorem hostBranch_unbound {s : State} {x : Nat} (h : lookupKey x s.vars = none) (mask : Word) (l : Nat) :
    hostBranch x mask l s = .refused .unboundName := by
  rw [hostBranch, h]

theorem hostBranch_not_taken {s : State} {x : Nat} {mask v : Word} (h : lookupKey x s.vars = some v)
    (hm : v &&& mask = 0#32) (l : Nat) : hostBranch x mask l s = .next s.hostNext := by
  simp only [hostBranch, h, hm, ne_eq, not_true_eq_false, if_false]

/-- A taken branch goes to the label, or is refused where there is none (R95). -/
theorem hostBranch_taken {s : State} {x : Nat} {mask v : Word} (h : lookupKey x s.vars = some v)
    (hm : v &&& mask ≠ 0#32) (l : Nat) : hostBranch x mask l s =
      (labelAt l s.prog).elim (.refused .unknownLabel) (fun k => .next (s.hostGoto k)) := by
  simp only [hostBranch, h, if_pos hm]
  cases labelAt l s.prog <;> rfl

/-- Settles O45: the equations of the host's step, the first position of a label, and the laws of a bound name. -/
theorem hostBranchFollowsTheMask : Obligations.HostBranchFollowsTheMask := by
  refine ⟨fun s x l k mask v => ⟨hostStep_label, fun hs hv => ⟨fun hm => ?_, fun hm hl => ?_, fun hm hl => ?_⟩,
      fun hs hv => (hostStep_bnz hs).trans (hostBranch_unbound hv mask l)⟩,
    fun _ _ _ => labelAt_eq_some, labelAt_isSome,
    fun s x y v => ⟨rfl, lookupKey_insertKey_self x v s.vars, lookupKey_insertKey_other v s.vars⟩⟩
  · exact (hostStep_bnz hs).trans (hostBranch_not_taken hv hm l)
  · rw [hostStep_bnz hs, hostBranch_taken hv hm, hl]; rfl
  · rw [hostStep_bnz hs, hostBranch_taken hv hm, hl]; rfl

/-! ### The other pseudo-instructions -/

/-- Settles O60: a number that fits a word is the word's value, and the rest are the model's own expansions. -/
theorem pseudoInstructionsExpand : Obligations.PseudoInstructionsExpand := by
  have hword {n : Nat} (h : n < 2 ^ 32) : (BitVec.ofNat 32 n).toNat = n :=
    (BitVec.toNat_ofNat n 32).trans (Nat.mod_eq_of_lt h)
  refine ⟨⟨rfl, rfl, rfl, rfl, rfl, rfl, rfl⟩, fun p x => ⟨rfl, fun i => rfl⟩, fun n hn => ?_,
    fun t ht => ?_, rfl, fun da db dc dd => rfl⟩
  · exact ⟨BitVec.ofNat 32 n, hword hn, rfl⟩
  · exact ⟨BitVec.ofNat 32 (t % 2 ^ 32), BitVec.ofNat 32 (t / 2 ^ 32), hword (by omega), hword (by omega), rfl⟩

end Machine
end Sys2Proof
end

section
/-! PROOFS. The compression function (spec/40_compression.md): the word arithmetic and the four functions bit by bit,
the step schedule of each round, the two forms of the step, and the compression of block sequences. -/

namespace Sys2Proof.Machine

/-! ### Rotation -/

/-- The bits of a rotation: the high `n` bits of the word stand below, the others `n` places up (R111). -/
theorem getLsbD_rotl32 (x : Word) {n k : Nat} (hn : n ≤ 32) (hk : k < 32) :
    (rotl32 x n).getLsbD k = if k < n then x.getLsbD (32 - n + k) else x.getLsbD (k - n) := by
  rw [rotl32, BitVec.getLsbD_or, BitVec.getLsbD_shiftLeft, BitVec.getLsbD_ushiftRight]
  split
  case isTrue h => simp [h]
  case isFalse h => simp [h, hk, BitVec.getLsbD_of_ge x (32 - n + k) (by omega)]

/-- Settles O5: a bit that stays inside the word moves `n` places up, and the others come back at the bottom. -/
theorem wordArithmeticWrapsAndRotates : Obligations.WordArithmeticWrapsAndRotates := by
  refine ⟨fun x y z => ⟨BitVec.toNat_add x y, BitVec.add_comm x y, BitVec.add_assoc x y z⟩, fun x n j hlo hhi hj => ?_⟩
  rw [getLsbD_rotl32 x (by omega) (Nat.mod_lt _ (by decide))]
  rcases Nat.lt_or_ge (j + n) 32 with hin | hout
  · have hmod : (j + n) % 32 = j + n := Nat.mod_eq_of_lt hin
    rw [hmod, if_neg (by omega), Nat.add_sub_cancel]
  · have hmod : (j + n) % 32 = j + n - 32 := by omega
    have hback : 32 - n + (j + n - 32) = j := by omega
    rw [hmod, if_pos (by omega), hback]

/-! ### The four functions -/

theorem getLsbD_fF (b c d : Word) {j : Nat} (hj : j < 32) :
    (fF b c d).getLsbD j = if b.getLsbD j then c.getLsbD j else d.getLsbD j := by
  simp only [fF, BitVec.getLsbD_or, BitVec.getLsbD_and, BitVec.getLsbD_not, hj, decide_true, Bool.true_and]
  cases b.getLsbD j <;> simp

theorem getLsbD_fG (b c d : Word) {j : Nat} (hj : j < 32) :
    (fG b c d).getLsbD j = if d.getLsbD j then b.getLsbD j else c.getLsbD j := by
  simp only [fG, BitVec.getLsbD_or, BitVec.getLsbD_and, BitVec.getLsbD_not, hj, decide_true, Bool.true_and]
  cases d.getLsbD j <;> simp

theorem getLsbD_fH (b c d : Word) (j : Nat) :
    (fH b c d).getLsbD j = (b.getLsbD j).xor ((c.getLsbD j).xor (d.getLsbD j)) := by
  rw [fH, BitVec.getLsbD_xor, BitVec.getLsbD_xor, Bool.xor_assoc]

theorem getLsbD_fI (b c d : Word) {j : Nat} (hj : j < 32) :
    (fI b c d).getLsbD j = (c.getLsbD j).xor (b.getLsbD j || !d.getLsbD j) := by
  simp [fI, hj]

/-! ### The round of a step -/

/-- Round `r + 1` has the steps from `16 r` up to `16 r + 15` (R116). -/
theorem div_of_round {i : Nat} (r : Nat) (hlo : 16 * r ≤ i) (hhi : i < 16 * (r + 1)) : i / 16 = r := by
  omega

/-- Settles O6: the functions bit by bit, and the round of the step. -/
theorem nonlinearFunctionsByRound : Obligations.NonlinearFunctionsByRound := by
  refine ⟨fun b c d j hj => ⟨getLsbD_fF b c d hj, getLsbD_fG b c d hj, getLsbD_fH b c d j, getLsbD_fI b c d hj⟩,
    fun i => ⟨fun hhi => ?_, fun ⟨hlo, hhi⟩ => ?_, fun ⟨hlo, hhi⟩ => ?_, fun ⟨hlo, hhi⟩ => ?_⟩⟩
  · simp only [fnOf, div_of_round 0 (Nat.zero_le i) hhi]
  · simp only [fnOf, div_of_round 1 hlo hhi]
  · simp only [fnOf, div_of_round 2 hlo hhi]
  · simp only [fnOf, div_of_round 3 hlo hhi]

/-! ### The step schedule -/

theorem shiftRow_length : ∀ r : Nat, (shiftRow r).length = 4
  | 0 | 1 | 2 | _ + 3 => rfl

theorem shiftRow_range : ∀ r < 4, ∀ n ∈ shiftRow r, 1 ≤ n ∧ n ≤ 31 := by
  decide

theorem mod_lt_shiftRow_length (i r : Nat) : i % 4 < (shiftRow r).length := by
  rw [shiftRow_length]
  exact Nat.mod_lt i (by decide)

/-- The four entries of a row cover every step, so the value beyond the row's end is never used (R122). -/
theorem shiftAmt_of_round {i r : Nat} (h : i / 16 = r) (x : Nat) : shiftAmt i = (shiftRow r).getD (i % 4) x := by
  have hi := mod_lt_shiftRow_length i r
  rw [shiftAmt, h, List.getD_eq_getElem _ _ hi, List.getD_eq_getElem _ _ hi]

theorem shiftAmt_range {i : Nat} (h : i < 64) : 1 ≤ shiftAmt i ∧ shiftAmt i ≤ 31 := by
  have hi := mod_lt_shiftRow_length i (i / 16)
  rw [shiftAmt, List.getD_eq_getElem _ _ hi]
  exact shiftRow_range (i / 16) (by omega) _ (List.getElem_mem hi)

/-- The step of a round that uses the message word `k`: the factors 13, 11 and 7 invert 5, 3 and 7 modulo 16. -/
def stepOfWord : Nat → Nat → Nat
  | 0, k => k
  | 1, k => 13 * (k + 15) % 16
  | 2, k => 11 * (k + 11) % 16
  | _, k => 7 * k % 16

theorem stepOfWord_lt {k : Nat} (hk : k < 16) : ∀ r : Nat, stepOfWord r k < 16
  | 0 => hk
  | 1 | 2 | _ + 3 => Nat.mod_lt _ (by decide)

theorem wordIdx_eq_iff {r j k : Nat} (hr : r < 4) (hj : j < 16) (hk : k < 16) :
    wordIdx (16 * r + j) = k ↔ j = stepOfWord r k := by
  rw [wordIdx, div_of_round r (by omega) (by omega)]
  interval_cases r
  all_goals simp only [stepOfWord]; omega

theorem map_tConst_range : (List.range 64).map tConst = tRound1 ++ tRound2 ++ tRound3 ++ tRound4 := by
  decide

/-- Settles O7: the tables by the round of the step; in each round `stepOfWord` inverts the word index. -/
theorem stepScheduleOfEachRound : Obligations.StepScheduleOfEachRound := by
  refine ⟨fun i hhi => ?_, fun i hlo hhi => ?_, fun i hlo hhi => ?_, fun i hlo hhi => ?_, fun _ => shiftAmt_range,
    fun r k hr hk => ⟨stepOfWord r k, stepOfWord_lt hk r, (wordIdx_eq_iff hr (stepOfWord_lt hk r) hk).mpr rfl,
      fun j hj => (wordIdx_eq_iff hr hj hk).mp⟩, map_tConst_range⟩
  · have h := div_of_round 0 (Nat.zero_le i) hhi
    exact ⟨shiftAmt_of_round h 0, by simp only [wordIdx, h]⟩
  · have h := div_of_round 1 hlo hhi
    exact ⟨shiftAmt_of_round h 0, by simp only [wordIdx, h]⟩
  · have h := div_of_round 2 hlo hhi
    exact ⟨shiftAmt_of_round h 0, by simp only [wordIdx, h]⟩
  · have h := div_of_round 3 hlo hhi
    exact ⟨shiftAmt_of_round h 0, by simp only [wordIdx, h]⟩

/-! ### One step -/

section
variable {i : Nat} (X : List Word) (s : Digest)

theorem md5Step_target_a (h : i % 4 = 0) : md5Step X s i = { s with a := stepValue X i s.a s.b s.c s.d } := by
  simp only [md5Step, h]

theorem md5Step_target_d (h : i % 4 = 1) : md5Step X s i = { s with d := stepValue X i s.d s.a s.b s.c } := by
  simp only [md5Step, h]

theorem md5Step_target_c (h : i % 4 = 2) : md5Step X s i = { s with c := stepValue X i s.c s.d s.a s.b } := by
  simp only [md5Step, h]

theorem md5Step_target_b (h : i % 4 = 3) : md5Step X s i = { s with b := stepValue X i s.b s.c s.d s.a } := by
  simp only [md5Step, h]

end

/-- Settles O8: the target of the step by its index modulo 4. -/
theorem stepUpdatesOneRegisterInRoles : Obligations.StepUpdatesOneRegisterInRoles :=
  ⟨fun _ _ _ _ _ _ => rfl,
    fun X s _ _ => ⟨md5Step_target_a X s, md5Step_target_d X s, md5Step_target_c X s, md5Step_target_b X s⟩⟩

/-! ### The rotating form -/

/-- Each register's word moves to the next register: what the rotating form does to the names in one step (R120). -/
def rotateNames (x : Digest) : Digest := ⟨x.d, x.a, x.b, x.c⟩

theorem rotateNames_period (x : Digest) : Function.IsPeriodicPt rotateNames 4 x := rfl

/-- A step of the rotating form on the words rotated `i` times is the step with roles, rotated once more. -/
theorem md5StepRot_rotateNames (X : List Word) (s : Digest) (i : Nat) :
    md5StepRot X (rotateNames^[i] s) i = rotateNames^[i + 1] (md5Step X s i) := by
  rw [Function.iterate_succ_apply', ← (rotateNames_period s).iterate_mod_apply,
    ← (rotateNames_period (md5Step X s i)).iterate_mod_apply]
  obtain h | h | h | h : i % 4 = 0 ∨ i % 4 = 1 ∨ i % 4 = 2 ∨ i % 4 = 3 := by omega
  · rw [md5Step_target_a X s h, h]; rfl
  · rw [md5Step_target_d X s h, h]; rfl
  · rw [md5Step_target_c X s h, h]; rfl
  · rw [md5Step_target_b X s h, h]; rfl

theorem md5StepsRot_eq_rotateNames (X : List Word) (s : Digest) (n : Nat) :
    md5StepsRot X s n = rotateNames^[n] (md5Steps X s n) := by
  induction n with
  | zero => rfl
  | succ n ih => rw [md5StepsRot, ih, md5StepRot_rotateNames, md5Steps]

/-- After every fourth step the names are back at their registers. -/
theorem md5StepsRot_eq_md5Steps (X : List Word) (s : Digest) {n : Nat} (h : n % 4 = 0) :
    md5StepsRot X s n = md5Steps X s n := by
  rw [md5StepsRot_eq_rotateNames, ← (rotateNames_period _).iterate_mod_apply, h, Function.iterate_zero_apply]

/-- The new value with its first role in front, as R120 writes it. -/
theorem stepValue_eq_add (X : List Word) (i : Nat) (w p q r : Word) :
    stepValue X i w p q r = p + rotl32 (w + fnOf i p q r + X.getD (wordIdx i) 0#32 + tConst i) (shiftAmt i) :=
  BitVec.add_comm _ _

/-- Settles O9: 64 is a multiple of 4, and each form's next state is its step on the state before. -/
theorem rotatingFormEqualsRoleForm : Obligations.RotatingFormEqualsRoleForm := by
  refine fun X s => ⟨md5StepsRot_eq_md5Steps X s (by decide), rfl, rfl, fun i _ => ⟨rfl, ?_⟩⟩
  rw [md5StepsRot, md5StepRot, stepValue_eq_add]
  rfl

/-! ### Block sequences -/

/-- A whole number of blocks in front is cut off block by block. -/
theorem blocksOf_append {n : Nat} (m : Nat) {ws : List Word} (vs : List Word) (h : ws.length = 16 * n) :
    blocksOf (n + m) (ws ++ vs) = blocksOf n ws ++ blocksOf m vs := by
  induction n generalizing ws with
  | zero => rw [List.eq_nil_of_length_eq_zero h, Nat.zero_add]; rfl
  | succ n ih =>
    have hdrop : (ws.drop 16).length = 16 * n := by rw [List.length_drop]; omega
    rw [Nat.add_right_comm, blocksOf, blocksOf, List.take_append_of_le_length (by omega),
      List.drop_append_of_le_length (by omega), ih hdrop, List.cons_append]

/-- Two passes over whole blocks, the state carried between them, are one pass (R127). -/
theorem compress_append (s : Digest) {ws : List Word} (vs : List Word) (h : ws.length % 16 = 0) :
    compress s (ws ++ vs) = compress (compress s ws) vs := by
  have hws : ws.length = 16 * (ws.length / 16) := by omega
  have hcount : (ws ++ vs).length / 16 = ws.length / 16 + vs.length / 16 := by rw [List.length_append]; omega
  rw [compress, hcount, blocksOf_append _ vs hws, List.foldl_append]
  rfl

/-- One block is compressed by `processBlock` (R124). -/
theorem compress_block (s : Digest) {X : List Word} (h : X.length = 16) : compress s X = processBlock s X := by
  rw [compress, h, blocksOf, List.take_of_length_le h.le]
  rfl

/-- Settles O10: a block in front is the case of one block of the split into two passes. -/
theorem blocksCompressInOrderWithChaining : Obligations.BlocksCompressInOrderWithChaining := by
  refine ⟨fun s X => ⟨rfl, rfl, rfl, rfl⟩, fun s X ws hX => ⟨?_, rfl⟩, fun s ws vs => compress_append s vs⟩
  rw [compress_append s ws (by rw [hX]), compress_block s hX]

end Sys2Proof.Machine
end

section
/-! PROOFS. The packer (spec/41_packer.md): the padded word count, the padded sequence by position, the bytes of the
buffer lane by lane, and the three modes with their blocks of 16 words. -/

namespace Sys2Proof.Machine

/-! ### The padded word count -/

/-- Settles O11: by the closed form of `n(L)`, each clause is linear in the one quotient `(L + 8) div 64`. -/
theorem paddedWordCountIsSmallest : Obligations.PaddedWordCountIsSmallest := by
  intro L
  obtain ⟨hroom, -, hn⟩ := paddedWords_room L
  exact ⟨hn, by omega, by omega, fun w _ _ => by omega, hroom, fun m _ => by omega⟩

/-! ### Bytes of words and double words -/

theorem extractLsb'_eq_ofNat_div {n : Nat} (x : BitVec n) (start len : Nat) :
    x.extractLsb' start len = BitVec.ofNat len (x.toNat / 2 ^ start) := by
  rw [BitVec.extractLsb', Nat.shiftRight_eq_div_pow]

theorem bytesOfWord_get (w : Word) {j : Nat} (hj : j < 4) : (bytesOfWord w)[j]? = some (byteLane w j) := by
  simpa using flatMap_bytesOfWord_get [w] (w := 0) hj

theorem byteLane_extractLsb' (v : DWord) (start : Nat) {j : Nat} (hj : j < 4) :
    byteLane (v.extractLsb' start 32) j = v.extractLsb' (start + 8 * j) 8 := by
  apply BitVec.eq_of_getLsbD_eq
  intro i hi
  have hbit : 8 * j + i < 32 := by omega
  simp [byteLane, hi, hbit, Nat.add_assoc]

/-- The bytes of the length field rise in weight (R154). -/
theorem bytesOfDWord_get (v : DWord) {j : Nat} (hj : j < 8) :
    (bytesOfDWord v)[j]? = some (v.extractLsb' (8 * j) 8) := by
  rw [bytesOfDWord]
  rcases Nat.lt_or_ge j 4 with h | h
  · rw [List.getElem?_append_left h, bytesOfWord_get _ h, byteLane_extractLsb' v 0 h, Nat.zero_add]
  · obtain ⟨i, rfl⟩ := Nat.exists_eq_add_of_le h
    have hi : i < 4 := by omega
    rw [List.getElem?_append_right h, show 4 + i - (bytesOfWord _).length = i from Nat.add_sub_cancel_left 4 i,
      bytesOfWord_get _ hi, byteLane_extractLsb' v 32 hi, Nat.mul_add]

/-- The words of the length field are its low and its high half (R154). -/
theorem wordsOfBytes_bytesOfDWord (v : DWord) :
    wordsOfBytes (bytesOfDWord v) = [BitVec.ofNat 32 v.toNat, BitVec.ofNat 32 (v.toNat / 2 ^ 32)] := by
  have hhalves : wordsOfBytes (bytesOfDWord v) = [v.extractLsb' 0 32, v.extractLsb' 32 32] :=
    wordsOfBytes_flatMap [v.extractLsb' 0 32, v.extractLsb' 32 32]
  rw [hhalves, extractLsb'_eq_ofNat_div, extractLsb'_eq_ofNat_div, Nat.pow_zero, Nat.div_one]

/-- Byte `4w + j` of a sequence is lane `j` of its word `w` (R150). -/
theorem wordsOfBytes_lane {bs : List Byte} (h : bs.length % 4 = 0) (w : Nat) {j : Nat} (hj : j < 4) :
    bs[4 * w + j]? = (wordsOfBytes bs)[w]?.map (fun v => byteLane v j) := by
  rw [← flatMap_bytesOfWord_get _ hj, flatMap_wordsOfBytes h]

/-! ### The padded sequence -/

/-- What stands before the length field: the real bytes, the marker and the zero bytes (R152, R153). -/
def paddedFront (bytes : List Byte) : List Byte :=
  bytes ++ [0x80#8] ++ List.replicate (4 * paddedWords bytes.length - 8 - (bytes.length + 1)) 0#8

theorem paddedBytes_eq_front (bytes : List Byte) (prior : DWord) :
    paddedBytes bytes prior = paddedFront bytes ++ bytesOfDWord (bitLength prior bytes.length) := rfl

theorem bytes_start_paddedBytes (bytes : List Byte) (prior : DWord) : bytes <+: paddedBytes bytes prior := by
  rw [paddedBytes, List.append_assoc, List.append_assoc]
  exact ⟨_, rfl⟩

theorem paddedFront_length (bytes : List Byte) : (paddedFront bytes).length = 4 * paddedWords bytes.length - 8 := by
  obtain ⟨hroom, -, -⟩ := paddedWords_room bytes.length
  rw [paddedFront, List.length_append, List.length_append, List.length_replicate, List.length_singleton]
  omega

theorem paddedFront_marker (bytes : List Byte) : (paddedFront bytes)[bytes.length]? = some 0x80#8 := by
  simp [paddedFront]

theorem paddedFront_zero {bytes : List Byte} {p : Nat} (hlo : bytes.length < p)
    (hhi : p < 4 * paddedWords bytes.length - 8) : (paddedFront bytes)[p]? = some 0#8 := by
  have hmark : (bytes ++ [0x80#8]).length = bytes.length + 1 := List.length_append
  rw [paddedFront, List.getElem?_append_right (by omega), hmark, List.getElem?_replicate, if_pos (by omega)]

theorem paddedBytes_front (bytes : List Byte) (prior : DWord) {p : Nat} (hp : p < 4 * paddedWords bytes.length - 8) :
    (paddedBytes bytes prior)[p]? = (paddedFront bytes)[p]? :=
  List.getElem?_append_left (hp.trans_eq (paddedFront_length bytes).symm)

theorem paddedBytes_lengthField (bytes : List Byte) (prior : DWord) (j : Nat) :
    (paddedBytes bytes prior)[4 * paddedWords bytes.length - 8 + j]? =
      (bytesOfDWord (bitLength prior bytes.length))[j]? := by
  rw [paddedBytes_eq_front, ← paddedFront_length, List.getElem?_append_right (Nat.le_add_right _ _),
    Nat.add_sub_cancel_left]

/-- The front is a whole number of words, so the length field has words of its own (R151, R154). -/
theorem packFinal_eq_front (bytes : List Byte) (prior : DWord) :
    packFinal bytes prior =
      wordsOfBytes (paddedFront bytes) ++ wordsOfBytes (bytesOfDWord (bitLength prior bytes.length)) := by
  rw [packFinal, paddedBytes_eq_front, wordsOfBytes_append _ (by rw [paddedFront_length]; omega)]

theorem packFinal_length (bytes : List Byte) (prior : DWord) :
    (packFinal bytes prior).length = paddedWords bytes.length := by
  rw [packFinal, wordsOfBytes_length, paddedBytes_length, Nat.mul_div_cancel_left _ (by decide)]

theorem packFinal_lengthField (bytes : List Byte) (prior : DWord) (j : Nat) :
    (packFinal bytes prior)[paddedWords bytes.length - 2 + j]? =
      (wordsOfBytes (bytesOfDWord (bitLength prior bytes.length)))[j]? := by
  have hfront : (wordsOfBytes (paddedFront bytes)).length = paddedWords bytes.length - 2 := by
    rw [wordsOfBytes_length, paddedFront_length]
    omega
  rw [packFinal_eq_front, ← hfront, List.getElem?_append_right (Nat.le_add_right _ _), Nat.add_sub_cancel_left]

theorem bitLength_toNat (prior : DWord) (L : Nat) : (bitLength prior L).toNat = (prior.toNat + L) * 8 % 2 ^ 64 :=
  BitVec.toNat_ofNat _ _

/-- Settles O12: the padded sequence is its front and the length field, whose parts are quotients of BITLEN. -/
theorem paddedFragmentLayout : Obligations.PaddedFragmentLayout := by
  intro bytes prior
  obtain ⟨hroom, -, -⟩ := paddedWords_room bytes.length
  refine ⟨paddedBytes_length bytes prior, fun p hp => ?_, ?_, fun p hlo hhi => ?_, fun j hj => ?_, rfl,
    packFinal_length bytes prior, ?_, ?_⟩
  · obtain ⟨rest, hrest⟩ := bytes_start_paddedBytes bytes prior
    rw [← hrest, List.getElem?_append_left hp]
  · rw [paddedBytes_front _ _ (by omega), paddedFront_marker]
  · rw [paddedBytes_front _ _ hhi, paddedFront_zero hlo hhi]
  · rw [paddedBytes_lengthField, bytesOfDWord_get _ hj, extractLsb'_eq_ofNat_div, bitLength_toNat]
  · refine (packFinal_lengthField bytes prior 0).trans ?_
    rw [wordsOfBytes_bytesOfDWord, bitLength_toNat]
    rfl
  · have hlast : paddedWords bytes.length - 1 = paddedWords bytes.length - 2 + 1 := by omega
    rw [hlast, packFinal_lengthField, wordsOfBytes_bytesOfDWord, bitLength_toNat]
    rfl

/-! ### The bytes of the buffer -/

theorem bufBytes_eq_some {s : State} {L : Nat} {bytes : List Byte} (h : s.bufBytes L = some bytes) :
    ∃ ws, s.bufWords 0 (wordsFor L) = some ws ∧ bytes = (ws.flatMap bytesOfWord).take L := by
  simp only [State.bufBytes] at h
  split at h
  next ws hws => exact ⟨ws, hws, (Option.some.inj h).symm⟩
  next => cases h

/-- The buffer gives its first `L` bytes when every word they lie in has been written (R251). -/
theorem exists_bufBytes {s : State} {L : Nat} (h : ∀ i, i < L → (s.bufWord (i / 4)).isSome = true) :
    ∃ bytes, s.bufBytes L = some bytes := by
  have hwords : (s.bufWords 0 (wordsFor L)).isSome = true := by
    refine (bufWords_isSome s 0 _).mpr fun w hw => ?_
    rw [wordsFor] at hw
    have := h (4 * w) (by omega)
    rwa [Nat.mul_div_cancel_left _ (by decide), ← Nat.zero_add w] at this
  obtain ⟨ws, hws⟩ := Option.isSome_iff_exists.mp hwords
  exact ⟨(ws.flatMap bytesOfWord).take L, by rw [State.bufBytes, hws]⟩

/-- Byte `i` of the buffer is lane `i mod 4` of `BUF[i div 4]` (R65). -/
theorem bufBytes_lane {s : State} {L i : Nat} {bytes : List Byte} (h : s.bufBytes L = some bytes) (hi : i < L) :
    bytes[i]? = (s.bufWord (i / 4)).map (fun w => byteLane w (i % 4)) := by
  obtain ⟨ws, hws, rfl⟩ := bufBytes_eq_some h
  obtain ⟨-, hget⟩ := bufWords_eq_some hws
  have hword : ws[i / 4]? = s.bufWord (i / 4) := by
    rw [hget _ (by rw [wordsFor]; omega), Nat.zero_add]
  calc ((ws.flatMap bytesOfWord).take L)[i]? = (ws.flatMap bytesOfWord)[4 * (i / 4) + i % 4]? := by
        rw [List.getElem?_take_of_lt hi, Nat.div_add_mod]
    _ = (s.bufWord (i / 4)).map (fun w => byteLane w (i % 4)) := by
        rw [flatMap_bytesOfWord_get _ (Nat.mod_lt i (by decide)), hword]

/-- The first `L` bytes of the buffer are the lanes they lie in, and nothing else. -/
theorem bufBytes_eq_some_iff {s : State} {L : Nat} {bytes : List Byte} :
    s.bufBytes L = some bytes ↔
      bytes.length = L ∧ ∀ i, i < L → bytes[i]? = (s.bufWord (i / 4)).map (fun w => byteLane w (i % 4)) := by
  refine ⟨fun h => ⟨bufBytes_length h, fun i hi => bufBytes_lane h hi⟩, fun ⟨hlen, hlane⟩ => ?_⟩
  obtain ⟨bytes', h'⟩ : ∃ bytes', s.bufBytes L = some bytes' := by
    refine exists_bufBytes fun i hi => ?_
    rw [← Option.isSome_map, ← hlane i hi, List.getElem?_eq_getElem (hlen ▸ hi), Option.isSome_some]
  have heq : bytes' = bytes := by
    refine List.ext_getElem?' fun i hi => ?_
    rw [bufBytes_length h', hlen, max_self] at hi
    rw [bufBytes_lane h' hi, hlane i hi]
  rw [h', heq]

/-- States that agree on the lanes of the first `L` bytes give the same bytes. -/
theorem bufBytes_congr_lanes {s t : State} {L : Nat}
    (h : ∀ i, i < L → (s.bufWord (i / 4)).map (fun w => byteLane w (i % 4)) =
      (t.bufWord (i / 4)).map (fun w => byteLane w (i % 4))) : s.bufBytes L = t.bufBytes L := by
  refine Option.ext fun bytes => ?_
  rw [bufBytes_eq_some_iff, bufBytes_eq_some_iff]
  exact and_congr_right fun _ => forall₂_congr fun i hi => by rw [h i hi]

/-- The words that start a byte sequence are its first packed words (R150). -/
theorem wordsOfBytes_get_of_prefix {ws : List Word} {bs : List Byte} (h : ws.flatMap bytesOfWord <+: bs) {w : Nat}
    (hw : w < ws.length) : (wordsOfBytes bs)[w]? = ws[w]? := by
  obtain ⟨rest, rfl⟩ := h
  rw [wordsOfBytes_append rest (by rw [flatMap_bytesOfWord_length, Nat.mul_mod_right]), wordsOfBytes_flatMap,
    List.getElem?_append_left hw]

/-- Packing the first `L` bytes of the buffer gives its whole words unchanged (R150). -/
theorem packFinal_bufWord {s : State} {L w : Nat} {bytes : List Byte} (prior : DWord) (h : s.bufBytes L = some bytes)
    (hw : w < L / 4) : (packFinal bytes prior)[w]? = s.bufWord w := by
  obtain ⟨ws, hws, hbytes⟩ := bufBytes_eq_some h
  obtain ⟨hlen, hget⟩ := bufWords_eq_some hws
  rw [wordsFor] at hlen hget
  have hwhole : (ws.take (L / 4)).length = L / 4 := by rw [List.length_take]; omega
  have hstart : (ws.take (L / 4)).flatMap bytesOfWord <+: bytes := by
    have htake := ((List.take_prefix (L / 4) ws).flatMap bytesOfWord).take L
    rwa [List.take_of_length_le (by rw [flatMap_bytesOfWord_length, hwhole]; exact Nat.mul_div_le L 4),
      ← hbytes] at htake
  calc (packFinal bytes prior)[w]? = (ws.take (L / 4))[w]? :=
        wordsOfBytes_get_of_prefix (hstart.trans (bytes_start_paddedBytes bytes prior)) (by rwa [hwhole])
    _ = s.bufWord w := by rw [List.getElem?_take_of_lt hw, hget w (by omega), Nat.zero_add]

/-- Settles O13: unpacking undoes packing, and the buffer's bytes are the unpacked bytes of its words. -/
theorem wordsPackLittleEndian : Obligations.WordsPackLittleEndian := by
  refine ⟨fun bs w j hbs hj hw => ?_, fun s L bytes prior w h hw => packFinal_bufWord prior h hw,
    fun s L bytes h => bufBytes_eq_some_iff.mp h⟩
  obtain ⟨v, hv⟩ : ∃ v, (wordsOfBytes bs)[w]? = some v :=
    ⟨_, List.getElem?_eq_getElem (by rwa [wordsOfBytes_length])⟩
  refine ⟨v, hv, ?_⟩
  rw [wordsOfBytes_lane hbs w hj, hv]
  rfl

theorem byteLane_congr {v v' : Word} {n j : Nat} (h : ∀ b, b < 8 * n → v.getLsbD b = v'.getLsbD b) (hj : j < n) :
    byteLane v j = byteLane v' j := by
  apply BitVec.eq_of_getLsbD_eq
  intro i hi
  rw [byteLane, byteLane, BitVec.getLsbD_extractLsb', BitVec.getLsbD_extractLsb', h (8 * j + i) (by omega)]

/-- Settles O15: a byte below `L` in word `L div 4` lies in a lane below `L mod 4`, and none lies in word `ceil(L/4)` or
beyond. -/
theorem unusedLanesNeverRead : Obligations.UnusedLanesNeverRead := by
  refine fun s L k v v' => ⟨fun hk hbits => bufBytes_congr_lanes fun i hi => ?_,
    fun hk => bufBytes_congr_lanes fun i hi => ?_⟩
  · rcases eq_or_ne (i / 4) k with h | h
    · have hlane : byteLane v (i % 4) = byteLane v' (i % 4) := byteLane_congr hbits (by omega)
      rw [h, bufWord_storeBuf_self, bufWord_storeBuf_self, Option.map_some, Option.map_some, hlane]
    · rw [bufWord_storeBuf_other s v h, bufWord_storeBuf_other s v' h]
  · rw [wordsFor] at hk
    rw [bufWord_storeBuf_other s v (by omega)]

/-! ### The modes and their blocks -/

theorem packNoPadding_of_whole {bytes : List Byte} (h : bytes.length % 64 = 0) :
    packNoPadding bytes = .ok (wordsOfBytes bytes) :=
  if_neg (not_not_intro h)

theorem packNoPadding_of_partial {bytes : List Byte} (h : bytes.length % 64 ≠ 0) :
    packNoPadding bytes = .error .invalidChunkLength :=
  if_pos h

theorem packFinal_whole_blocks (bytes : List Byte) (prior : DWord) : (packFinal bytes prior).length % 16 = 0 := by
  obtain ⟨-, hmod, -⟩ := paddedWords_room bytes.length
  rw [packFinal_length, hmod]

/-- Every mode gives a whole number of blocks (R160). -/
theorem pack_whole_blocks {mode : PackMode} {bytes : List Byte} {prior : DWord} {words : List Word}
    (h : pack mode bytes prior = .ok words) : words.length % 16 = 0 := by
  cases mode with
  | noPadding =>
    by_cases hb : bytes.length % 64 = 0
    · obtain rfl : wordsOfBytes bytes = words := Except.ok.inj ((packNoPadding_of_whole hb).symm.trans h)
      rw [wordsOfBytes_length]
      omega
    · cases (packNoPadding_of_partial hb).symm.trans h
  | finalPadded =>
    obtain rfl := Except.ok.inj h
    exact packFinal_whole_blocks bytes prior
  | wholePadded =>
    obtain rfl := Except.ok.inj h
    exact packFinal_whole_blocks bytes 0#64

/-- Whole blocks in order make up the sequence, and each has 16 words (R125, R160). -/
theorem blocksOf_whole {n : Nat} {ws : List Word} (h : ws.length = 16 * n) :
    (blocksOf n ws).flatten = ws ∧ ∀ X ∈ blocksOf n ws, X.length = 16 := by
  induction n generalizing ws with
  | zero => exact ⟨(List.eq_nil_of_length_eq_zero h).symm, fun X hX => nomatch hX⟩
  | succ n ih =>
    obtain ⟨hflat, hlen⟩ := ih (ws := ws.drop 16) (by rw [List.length_drop]; omega)
    rw [blocksOf, List.flatten_cons, hflat, List.take_append_drop, List.forall_mem_cons, List.length_take]
    exact ⟨rfl, by omega, hlen⟩

/-- Settles O14: by mode, and the cut of a whole number of blocks by their count. -/
theorem packerModesGiveWholeBlocks : Obligations.PackerModesGiveWholeBlocks := by
  refine ⟨fun bytes prior => ⟨rfl, rfl, packNoPadding_of_whole, packNoPadding_of_partial⟩,
    fun mode bytes prior words h => ?_⟩
  have hmod := pack_whole_blocks h
  exact ⟨hmod, blocksOf_whole (by omega)⟩

end Sys2Proof.Machine
end

section
/-! PROOFS. The commands (spec/42_sequencer.md R181 to R191): when each is accepted, what its completion body does, and
the state that its issue and its completion leave. -/

namespace Sys2Proof.Machine

/-! ### Acceptance -/

theorem lenVerdict_of_fits {i : Instr} {s : State} (hfit : readsLen i = true → s.lenBytes ≤ s.chunkBytes)
    (hblocks : i = .absorb → s.lenBytes % 64 = 0) : lenVerdict i s = .accepted := by
  have hlong : ¬ (readsLen i && decide (s.chunkBytes < s.lenBytes)) = true := by
    rw [Bool.and_eq_true, decide_eq_true_eq]
    exact fun ⟨hr, hlt⟩ => absurd (hfit hr) (Nat.not_le.mpr hlt)
  rw [lenVerdict, if_neg hlong, if_neg fun ⟨hi, hne⟩ => hne (hblocks hi)]

/-- A command that starts a message passes whatever `fsm` and ERR are (R242). -/
theorem acceptance_of_starts {i : Instr} {s : State} (hi : startsMessage i = true) (hl : lenVerdict i s = .accepted) :
    acceptance i s = .accepted := by
  rw [acceptance, if_pos hi, hl, ite_self]

/-- In STREAMING without an error only LEN decides (R242). -/
theorem acceptance_of_streaming {i : Instr} {s : State} (hf : s.fsm = .streaming) (he : s.err = false)
    (hl : lenVerdict i s = .accepted) : acceptance i s = .accepted := by
  simp only [acceptance, hf, he, hl, ne_eq, not_true_eq_false, if_false, Bool.false_eq_true, ite_self]

theorem exec_nop_idle {s : State} (hb : s.busy = false) : exec .nop s = .next s :=
  exec_idle .nop hb

theorem exec_of_accepted {i : Instr} {s : State} (hb : s.busy = false) (hi : i ≠ .nop)
    (ha : acceptance i s = .accepted) : exec i s = .next (acceptEffect i s) := by
  rw [exec_idle i hb, issue, ha]
  exact if_neg hi

/-- The acceptance of INIT and ONESHOT: recovery from an error, and the command pending (R181, R254). -/
theorem acceptEffect_of_starts {i : Instr} (h : startsMessage i = true) (s : State) :
    acceptEffect i s = { s with err := false, errCode := .none, ovf := false, pending := some i } :=
  if_pos h

theorem acceptEffect_of_not_starts {i : Instr} (h : startsMessage i = false) (s : State) :
    acceptEffect i s = { s with pending := some i } :=
  if_neg (h ▸ Bool.false_ne_true)

/-! ### The completion bodies -/

/-- A full chunk is absorbed, and then COUNT is held against TOTAL (R187). -/
theorem chunkBody_full {s t : State} (hL : s.lenBytes = s.chunkBytes) (ht : absorb s.lenBytes s = .next t) :
    chunkBody s = if reachedTotal t then finalize 0 t else .next t := by
  rw [chunkBody, if_pos hL, ht, andThen]

theorem chunkBody_short {s : State} (hL : s.lenBytes ≠ s.chunkBytes) : chunkBody s = finalize s.lenBytes s :=
  if_neg hL

theorem reachedTotal_added (s : State) (x : Digest) (L : Nat) :
    reachedTotal ((s.setDigest x).addBytes L) = (s.useTotal && s.count + BitVec.ofNat 64 L == s.total) := (rfl)

/-- `BodyEffect` is not only all that a body can do: each of its cases is what the body does. -/
theorem BodyEffect.bodyOf_eq {s u : State} {i : Instr} (h : BodyEffect s i u) : bodyOf i s = .next u := by
  cases h with
  | nop => rw [bodyOf_nop, nopBody]
  | init => rw [bodyOf_init, initBody]
  | absorbed hi hb h64 htotal =>
    rcases hi with rfl | ⟨rfl, hL⟩
    · rw [bodyOf_absorb, absorbBody, absorb_of_bytes hb h64]
    · rw [bodyOf_chunk, chunkBody_full hL (absorb_of_bytes hb h64), reachedTotal_added, htotal rfl]
      rfl
  | reached hL hb h64 huse htotal =>
    rw [bodyOf_chunk, chunkBody_full hL (absorb_of_bytes hb h64), reachedTotal_added, huse, htotal, beq_self_eq_true,
      finalize_zero]
    rfl
  | finalised hi hb =>
    rcases hi with rfl | ⟨rfl, hL⟩
    · rw [bodyOf_final, finalBody, finalize_of_bytes hb]
    · rw [bodyOf_chunk, chunkBody_short hL, finalize_of_bytes hb]
  | oneshot hb => rw [bodyOf_oneshot, oneshotBody_of_bytes hb]
  | block hX => rw [bodyOf_block, blockBody, hX]

/-- The completion of the pending command (R182). -/
theorem BodyEffect.exec_pending {s u : State} {i : Instr} (h : BodyEffect s i u) (hp : s.pending = some i) :
    exec i s = .next u.endCommand := by
  rw [exec_busy i (busy_of_pending hp), complete_of_next h.bodyOf_eq]

/-- COUNT plus LEN is not TOTAL, or TOTAL is not in use: the chunk does not end the message (R187). -/
theorem not_reached_iff (s : State) (c : DWord) :
    (s.useTotal && c == s.total) = false ↔ s.useTotal = false ∨ c ≠ s.total := by
  rw [Bool.and_eq_false_iff, beq_eq_false_iff_ne]

/-- A full chunk that does not end the message (R187). -/
theorem BodyEffect.fullChunk {s : State} {bytes : List Byte} (hL : s.lenBytes = s.chunkBytes)
    (hb : s.bufBytes s.lenBytes = some bytes)
    (ht : s.useTotal = false ∨ s.count + BitVec.ofNat 64 s.lenBytes ≠ s.total) :
    BodyEffect s .chunk ((s.setDigest (compress s.digest (wordsOfBytes bytes))).addBytes s.lenBytes) := by
  obtain ⟨-, -, h64⟩ := chunkBytes_le s
  exact .absorbed (.inr ⟨rfl, hL⟩) hb (hL ▸ h64) fun _ => (not_reached_iff s _).mpr ht

/-- The full chunk that brings COUNT to TOTAL (R187). -/
theorem BodyEffect.lastChunk {s : State} {bytes : List Byte} (hL : s.lenBytes = s.chunkBytes)
    (hb : s.bufBytes s.lenBytes = some bytes) (huse : s.useTotal = true)
    (ht : s.count + BitVec.ofNat 64 s.lenBytes = s.total) :
    BodyEffect s .chunk
      (finalizeBytes [] 0 ((s.setDigest (compress s.digest (wordsOfBytes bytes))).addBytes s.lenBytes)) := by
  obtain ⟨-, -, h64⟩ := chunkBytes_le s
  exact .reached hL hb (hL ▸ h64) huse ht

/-- FINAL, or CHUNK with LEN below CHUNK_BYTES (R187, R189). -/
theorem BodyEffect.ofFragment {s : State} {i : Instr} {bytes : List Byte}
    (hi : i = .final ∨ i = .chunk ∧ s.lenBytes < s.chunkBytes) (hb : s.bufBytes s.lenBytes = some bytes) :
    BodyEffect s i (finalizeBytes bytes s.lenBytes s) :=
  .finalised (hi.imp_right fun ⟨hc, hL⟩ => ⟨hc, hL.ne⟩) hb

/-! ### The obligations -/

/-- Settles O33: the issue of NOP. -/
theorem nopChangesNothing : Obligations.NopChangesNothing := fun _ => exec_nop_idle

/-- Settles O31: the conditions on the state are those of the acceptance checks. -/
theorem acceptedCommandBecomesPending : Obligations.AcceptedCommandBecomesPending := by
  intro s hb
  have starts {i : Instr} (hm : startsMessage i = true) (hi : i ≠ .nop) (hl : lenVerdict i s = .accepted) :=
    acceptEffect_of_starts hm s ▸ exec_of_accepted hb hi (acceptance_of_starts hm hl)
  have goesOn {i : Instr} (hm : startsMessage i = false) (hi : i ≠ .nop) (hf : s.fsm = .streaming)
      (he : s.err = false) (hl : lenVerdict i s = .accepted) :=
    acceptEffect_of_not_starts hm s ▸ exec_of_accepted hb hi (acceptance_of_streaming hf he hl)
  refine ⟨exec_nop_idle hb, starts rfl nofun (lenVerdict_of_fits nofun nofun), fun hL => ?_, fun hf he hL => ⟨?_, ?_⟩,
    fun hf he hL h64 => ?_, fun hf he => ?_⟩
  · exact starts rfl nofun (lenVerdict_of_fits (fun _ => hL) nofun)
  · exact goesOn rfl nofun hf he (lenVerdict_of_fits (fun _ => hL) nofun)
  · exact goesOn rfl nofun hf he (lenVerdict_of_fits (fun _ => hL) nofun)
  · exact goesOn rfl nofun hf he (lenVerdict_of_fits (fun _ => hL) (fun _ => h64))
  · exact goesOn rfl nofun hf he (lenVerdict_of_fits nofun nofun)

/-- Settles O34: the body of INIT. -/
theorem initCompletes : Obligations.InitCompletes := fun _ hp => BodyEffect.init.exec_pending hp

/-- Settles O35: the case of `BodyEffect` in which the chunk is absorbed and no more. -/
theorem fullChunkIsAbsorbed : Obligations.FullChunkIsAbsorbed := by
  intro s bytes hp hL hb ht
  rw [(BodyEffect.fullChunk hL hb ht).exec_pending hp, endCommand_addBytes_setDigest]
  rfl

/-- Settles O36: absorbed and then finalised with the empty fragment, whose prior count is TOTAL. -/
theorem chunkReachingTotalFinalises : Obligations.ChunkReachingTotalFinalises := by
  intro s bytes hp hL hb huse ht
  rw [(BodyEffect.lastChunk hL hb huse ht).exec_pending hp, endCommand_finalizeBytes, addBytes_digest, addBytes_count,
    addBytes_ovf, setDigest_digest, setDigest_count, setDigest_ovf, State.lenBytes, ht, BitVec.add_zero]
  rfl

/-- Settles O37: the finalised case of `BodyEffect`. -/
theorem finalAndShortChunkFinalise : Obligations.FinalAndShortChunkFinalise := by
  intro s i bytes hi hp hb
  rw [(BodyEffect.ofFragment hi hb).exec_pending hp, endCommand_finalizeBytes]
  rfl

/-- Settles O38: the absorbed case of `BodyEffect`; with no bytes nothing is compressed and nothing is counted. -/
theorem absorbCompressesWholeBlocks : Obligations.AbsorbCompressesWholeBlocks := by
  intro s bytes hp h64 hb
  have hexec := (BodyEffect.absorbed (.inl rfl) hb h64 nofun).exec_pending hp
  rw [endCommand_addBytes_setDigest] at hexec
  refine ⟨hexec, fun hlen hcount => ?_⟩
  have hL : s.lenBytes = 0 := by rw [State.lenBytes, hlen]; rfl
  obtain rfl : bytes = [] := List.eq_nil_of_length_eq_zero ((bufBytes_length hb).trans hL)
  have hovf : overflows s.count 0 = false := decide_eq_false (Nat.not_le.mpr hcount)
  rw [hexec, hL, hovf, Bool.or_false, BitVec.add_zero]
  rfl

/-- Settles O39: the body of ONESHOT; a message of one buffer cannot overflow. -/
theorem oneshotDigestsTheBuffer : Obligations.OneshotDigestsTheBuffer := by
  intro s bytes hp hb
  rw [(BodyEffect.oneshot hb).exec_pending hp, endCommand_finalizeBytes, loadIv_ovf, loadIv_count,
    overflows_zero_lenBytes, Bool.or_false, BitVec.zero_add]
  rfl

/-- Settles O40: the body of BLOCK. -/
theorem blockCompressesTheBuffer : Obligations.BlockCompressesTheBuffer := by
  intro s X hp hX hw
  have hblock : s.bufBlock = some X := bufWords_of_bufWord hX fun j hj => by rw [Nat.zero_add, hw j hj]
  rw [(BodyEffect.block hblock).exec_pending hp, endCommand_setDigest]

/-- Settles O59: both digests are the one-pass digest of the same bytes. -/
theorem oneshotDependsOnlyOnTheBytes : Obligations.OneshotDependsOnlyOnTheBytes := by
  intro s u bytes hs hu hbs hbu
  have hlen : s.len.toNat = u.len.toNat := (bufBytes_length hbs).symm.trans (bufBytes_length hbu)
  refine ⟨_, _, oneshotDigestsTheBuffer s bytes hs hbs, oneshotDigestsTheBuffer u bytes hu hbu, rfl, ?_, rfl⟩
  exact congrArg (BitVec.ofNat 64) hlen

end Sys2Proof.Machine
end

section
/-! PROOFS. The invariant of the machine and the sequencer (spec/42_sequencer.md R180 to R182, R192): that every step
keeps it, what it says of a pending command, and when a completion fails. -/

namespace Sys2Proof.Machine

/-! ### What a host turn and a completion do to `fsm` -/

theorem HostTurn.fsm {s t : State} (h : HostTurn s t) : t.fsm = s.fsm := by
  cases h with
  | same hc => exact hc.fsm
  | raised r c hr ht => exact ht ▸ (raiseError_fsm _ _).trans hr.fsm
  | accepted r v i _ _ _ hr _ _ ht =>
    rw [acceptEffect_eq] at ht
    exact ht ▸ hr.fsm
  | operand _ _ _ _ hf => exact hf

/-- A completion leaves `fsm` alone or moves it as the table says (R180). -/
theorem BodyEffect.fsm_cases {s u : State} {i : Instr} (h : BodyEffect s i u) :
    u.fsm = s.fsm ∨ (i = .init ∧ u.fsm = .streaming) ∨ (i = .oneshot ∧ u.fsm = .done) ∨
    (i = .final ∧ u.fsm = .done) ∨
    (i = .chunk ∧ u.fsm = .done ∧ (s.lenBytes ≠ s.chunkBytes ∨ s.useTotal = true ∧ u.count = s.total)) := by
  cases h with
  | nop => exact .inl rfl
  | init => exact .inr (.inl ⟨rfl, setFsm_fsm _ _⟩)
  | absorbed => exact .inl (by rw [addBytes_fsm, setDigest_fsm])
  | reached _ _ _ huse ht =>
    refine .inr (.inr (.inr (.inr ⟨rfl, finalizeBytes_fsm _ _ _, .inr ⟨huse, ?_⟩⟩)))
    rw [finalizeBytes_count, addBytes_count, setDigest_count, BitVec.add_zero, ht]
  | finalised hi =>
    rcases hi with rfl | ⟨rfl, hL⟩
    · exact .inr (.inr (.inr (.inl ⟨rfl, finalizeBytes_fsm _ _ _⟩)))
    · exact .inr (.inr (.inr (.inr ⟨rfl, finalizeBytes_fsm _ _ _, .inl hL⟩)))
  | oneshot => exact .inr (.inr (.inl ⟨rfl, finalizeBytes_fsm _ _ _⟩))
  | block => exact .inl (setDigest_fsm _ _)

/-- NOP, INIT and BLOCK count no bytes (R27). -/
theorem BodyEffect.ovf_kept {s u : State} {i : Instr} (h : BodyEffect s i u)
    (hi : i = .nop ∨ i = .init ∨ i = .block) : u.ovf = s.ovf := by
  cases h with
  | nop => rfl
  | init => rw [setFsm_ovf, loadIv_ovf]
  | absorbed hc => rcases hc with rfl | ⟨rfl, -⟩ <;> simp at hi
  | reached => simp at hi
  | finalised hc => rcases hc with rfl | ⟨rfl, -⟩ <;> simp at hi
  | oneshot => simp at hi
  | block => exact setDigest_ovf _ _

/-- NOP, ABSORB and BLOCK neither start nor end a message (R180). -/
theorem BodyEffect.fsm_kept {s u : State} {i : Instr} (h : BodyEffect s i u)
    (hi : i = .nop ∨ i = .absorb ∨ i = .block) : u.fsm = s.fsm := by
  rcases h.fsm_cases with hf | ⟨rfl, -⟩ | ⟨rfl, -⟩ | ⟨rfl, -⟩ | ⟨rfl, -⟩
  · exact hf
  all_goals simp at hi

/-! ### The pending command -/

/-- A pending command has passed its acceptance checks, and they still hold (R181). -/
theorem State.Inv.pending_some {s : State} {i : Instr} (h : s.Inv) (hp : s.pending = some i) :
    i ≠ .nop ∧ (startsMessage i = true ∨ s.fsm = .streaming) ∧ lenVerdict i s = .accepted := by
  have hok := h.pending
  simp only [State.pendingOk, hp, Bool.and_eq_true, bne_iff_ne, Bool.or_eq_true, beq_iff_eq] at hok
  obtain ⟨⟨hi, hs⟩, hl⟩ := hok
  exact ⟨hi, hs, hl⟩

/-- A pending CHUNK's LEN is at most CHUNK_BYTES (R244). -/
theorem State.Inv.chunk_fits {s : State} (h : s.Inv) (hp : s.pending = some .chunk) : s.lenBytes ≤ s.chunkBytes := by
  obtain ⟨-, -, hl⟩ := h.pending_some hp
  exact (lenVerdict_accepted hl).1 rfl

/-- In DONE only INIT and ONESHOT can be pending (R192). -/
theorem State.Inv.pending_of_done {s : State} {i : Instr} (h : s.Inv) (hd : s.fsm = .done) (hp : s.pending = some i) :
    i = .init ∨ i = .oneshot := by
  obtain ⟨-, hs, -⟩ := h.pending_some hp
  exact (startsMessage_iff i).mp (hs.resolve_right (by simp [hd]))

/-! ### The words a completion consumes -/

theorem isSome_bufBytes (s : State) (L : Nat) : (s.bufBytes L).isSome = (s.bufWords 0 (wordsFor L)).isSome := by
  rw [State.bufBytes]
  cases s.bufWords 0 (wordsFor L) <;> rfl

theorem wordsFor_of_blocks {L : Nat} (h : L % 64 = 0) : wordsFor L = L / 4 := by
  rw [wordsFor]
  omega

/-- With the written flags in order, words are readable exactly when each is flagged (R35). -/
theorem isSome_bufWords_iff {s : State} (h : s.writtenOk = true) (n : Nat) :
    (s.bufWords 0 n).isSome = true ↔ ∀ k, k < n → s.isWritten k = true := by
  simp only [bufWords_isSome, Nat.zero_add, bufWord_isSome_eq h]

theorem absorb_of_unreadable {s : State} {L : Nat} (h : s.bufBytes L = none) :
    absorb L s = .fault .unwrittenBuffer := by
  rw [absorb, h]

theorem finalize_of_unreadable {s : State} {L : Nat} (h : s.bufBytes L = none) :
    finalize L s = .fault .unwrittenBuffer := by
  rw [finalize, h]

/-- CHUNK fails where its bytes cannot be read, whether it would absorb or finalise them. -/
theorem chunkBody_of_unreadable {s : State} (h : s.bufBytes s.lenBytes = none) :
    chunkBody s = .fault .unwrittenBuffer := by
  rw [chunkBody, absorb_of_unreadable h, finalize_of_unreadable h, andThen, ite_self]

/-- CHUNK completes in one of its three ways once its bytes can be read (R187). -/
theorem exists_bodyEffect_chunk {s : State} {bytes : List Byte} (hb : s.bufBytes s.lenBytes = some bytes) :
    ∃ u, BodyEffect s .chunk u := by
  by_cases hL : s.lenBytes = s.chunkBytes
  · by_cases ht : s.useTotal = false ∨ s.count + BitVec.ofNat 64 s.lenBytes ≠ s.total
    · exact ⟨_, .fullChunk hL hb ht⟩
    · obtain ⟨huse, hreach⟩ := not_or.mp ht
      exact ⟨_, .lastChunk hL hb (Bool.not_eq_false _ ▸ huse) (not_not.mp hreach)⟩
  · exact ⟨_, .finalised (.inr ⟨rfl, hL⟩) hb⟩

/-- The body of a command whose words can be read completes. -/
theorem exists_bodyEffect {s : State} {i : Instr} (hl : lenVerdict i s = .accepted)
    (hw : (s.bufWords 0 (consumedWords i s)).isSome = true) : ∃ u, BodyEffect s i u := by
  have readable (h : (s.bufWords 0 (wordsFor s.lenBytes)).isSome = true) :
      ∃ bytes, s.bufBytes s.lenBytes = some bytes :=
    Option.isSome_iff_exists.mp (isSome_bufBytes s _ ▸ h)
  cases i with
  | nop => exact ⟨_, .nop⟩
  | init => exact ⟨_, .init⟩
  | chunk =>
    obtain ⟨bytes, hb⟩ := readable hw
    exact exists_bodyEffect_chunk hb
  | absorb =>
    have h64 := (lenVerdict_accepted hl).2 rfl
    obtain ⟨bytes, hb⟩ := readable (wordsFor_of_blocks h64 ▸ hw)
    exact ⟨_, .absorbed (.inl rfl) hb h64 nofun⟩
  | final =>
    obtain ⟨bytes, hb⟩ := readable hw
    exact ⟨_, .finalised (.inl rfl) hb⟩
  | oneshot =>
    obtain ⟨bytes, hb⟩ := readable hw
    exact ⟨_, .oneshot hb⟩
  | block =>
    obtain ⟨X, hX⟩ := Option.isSome_iff_exists.mp hw
    exact ⟨_, .block hX⟩

/-- The body of a command one of whose words cannot be read is the fault of R251. -/
theorem bodyOf_of_unreadable {s : State} {i : Instr} (hl : lenVerdict i s = .accepted)
    (hw : s.bufWords 0 (consumedWords i s) = none) : bodyOf i s = .fault .unwrittenBuffer := by
  have unreadable (h : s.bufWords 0 (wordsFor s.lenBytes) = none) : s.bufBytes s.lenBytes = none := by
    rw [State.bufBytes, h]
  cases i with
  | nop | init => cases hw
  | chunk => rw [bodyOf_chunk, chunkBody_of_unreadable (unreadable hw)]
  | absorb =>
    have h64 := (lenVerdict_accepted hl).2 rfl
    rw [bodyOf_absorb, absorbBody, absorb_of_unreadable (unreadable (wordsFor_of_blocks h64 ▸ hw))]
  | final => rw [bodyOf_final, finalBody, finalize_of_unreadable (unreadable hw)]
  | oneshot =>
    rw [bodyOf_oneshot, oneshotBody, finalize_of_unreadable ((bufBytes_loadIv s _).trans (unreadable hw))]
  | block =>
    have hX : s.bufBlock = none := hw
    rw [bodyOf_block, blockBody, hX]

/-! ### What keeps the invariant -/

/-- The invariant speaks of the core and of the host's variables only. -/
theorem State.Inv.congr {s t : State} (h : s.Inv) (hs : CoreSame s t) (hv : t.varsOk = true) : t.Inv where
  mem := (memOk_congr hs.chunk hs.mem).trans h.mem
  written := (writtenOk_congr hs.chunk hs.mem hs.written).trans h.written
  err := (errOk_congr hs.err hs.errCode).trans h.err
  fsm := (fsmOk_congr hs.fsm).trans h.fsm
  pending := (pendingOk_congr hs.chunk hs.pending hs.fsm hs.len).trans h.pending
  vars := hv

/-- The record of a first error keeps it, under any code but that of no error (R241). -/
theorem State.Inv.raiseError {s : State} (h : s.Inv) {c : ErrCode} (hc : c ≠ .none) : (s.raiseError c).Inv where
  mem := (memOk_congr (raiseError_chunk s c) (raiseError_mem s c)).trans h.mem
  written := (writtenOk_congr (raiseError_chunk s c) (raiseError_mem s c) (raiseError_written s c)).trans h.written
  err := errOk_raiseError hc h.err
  fsm := (fsmOk_congr (raiseError_fsm s c)).trans h.fsm
  pending :=
    (pendingOk_congr (raiseError_chunk s c) (raiseError_pending s c) (raiseError_fsm s c) (raiseError_len s c)).trans
      h.pending
  vars := (varsOk_congr (raiseError_vars s c)).trans h.vars

theorem errOk_acceptEffect {s : State} (i : Instr) (h : s.errOk = true) : (acceptEffect i s).errOk = true := by
  cases hm : startsMessage i with
  | false => exact acceptEffect_of_not_starts hm s ▸ h
  | true => rw [acceptEffect_of_starts hm]; rfl

/-- The acceptance of a command keeps it (R181). -/
theorem State.Inv.acceptEffect {s : State} {i : Instr} (h : s.Inv) (ha : acceptance i s = .accepted)
    (hi : i ≠ .nop) : (acceptEffect i s).Inv := by
  refine ⟨?_, ?_, errOk_acceptEffect i h.err, ?_, pendingOk_acceptEffect ha hi, ?_⟩
  all_goals rw [acceptEffect_eq]
  exacts [h.mem, h.written, h.fsm, h.vars]

/-- The issue of a command keeps it. -/
theorem State.Inv.exec_idle {s t : State} {i : Instr} (h : s.Inv) (hb : s.busy = false) (ht : exec i s = .next t) :
    t.Inv := by
  rcases exec_next ht with ⟨-, rfl | ⟨c, hc, rfl⟩ | ⟨ha, hi, rfl⟩⟩ | ⟨hb', -⟩
  · exact h
  · exact h.raiseError fun hnone => acceptance_ne_rejected_none i s (hnone ▸ hc)
  · exact h.acceptEffect ha hi
  · exact absurd hb' (hb ▸ Bool.false_ne_true)

/-- An operand write of an idle core keeps it: no clause speaks of CFG and TOTAL, and that of LEN asks for a pending
command. -/
theorem State.Inv.operand {s t : State} (h : s.Inv) (hb : s.busy = false) (hc : t.chunk = s.chunk)
    (hm : t.mem = s.mem) (hw : t.written = s.written) (he : t.err = s.err) (hec : t.errCode = s.errCode)
    (hf : t.fsm = s.fsm) (hp : t.pending = s.pending) (hv : t.vars = s.vars) : t.Inv where
  mem := (memOk_congr hc hm).trans h.mem
  written := (writtenOk_congr hc hm hw).trans h.written
  err := (errOk_congr he hec).trans h.err
  fsm := (fsmOk_congr hf).trans h.fsm
  pending := pendingOk_of_none (hp.trans ((not_busy_iff s).mp hb))
  vars := (varsOk_congr hv).trans h.vars

/-- A write of a word the buffer has keeps it (R35). -/
theorem State.Inv.storeBuf {s : State} {k : Nat} (h : s.Inv) (v : Word) (hk : 4 * k < s.chunkBytes) :
    (s.storeBuf k v).Inv where
  mem := memOk_storeBuf v hk h.mem
  written := writtenOk_storeBuf v hk h.written
  err := h.err
  fsm := h.fsm
  pending := (pendingOk_congr (storeBuf_chunk s k v) (storeBuf_pending s k v) (storeBuf_fsm s k v)
    (storeBuf_len s k v)).trans h.pending
  vars := h.vars

/-- A write through the port keeps it, at whatever word-aligned offset. -/
theorem State.Inv.write {s t : State} {v : Word} {off : Nat} (h : s.Inv) (h4 : off % 4 = 0)
    (he : WriteEffect v s (regAt s.chunkBytes off) t) : t.Inv := by
  cases he with
  | ignored => exact h
  | busyWrite => exact h.raiseError nofun
  | illegal => exact h.raiseError nofun
  | command hb _ _ ht => exact h.exec_idle hb ht
  | len hb => exact h.operand hb rfl rfl rfl rfl rfl rfl rfl rfl
  | cfg hb => exact h.operand hb rfl rfl rfl rfl rfl rfl rfl rfl
  | totalLo hb => exact h.operand hb rfl rfl rfl rfl rfl rfl rfl rfl
  | totalHi hb => exact h.operand hb rfl rfl rfl rfl rfl rfl rfl rfl
  | buf k _ hr => exact h.storeBuf v (regAt_buf hr h4).2

theorem State.Inv.popTurn {s : State} (h : s.Inv) : s.popTurn.Inv := h.congr (popTurn_same s) h.vars

theorem State.Inv.hostNext {s : State} (h : s.Inv) : s.hostNext.Inv := h.congr (hostNext_same s) h.vars

theorem State.Inv.hostStep {s t : State} (h : s.Inv) (ht : hostStep s = .next t) : t.Inv := by
  rcases hostStep_next ht with hs | ⟨off, v, -, h4, -, he⟩
  · exact h.congr hs (hostStep_vars ht h.vars)
  · exact h.hostNext.write h4 he

/-- No completion ends in FINALIZING (R180). -/
theorem BodyEffect.fsmOk {s u : State} {i : Instr} (he : BodyEffect s i u) (h : s.fsmOk = true) : u.fsmOk = true := by
  rcases he.fsm_cases with hf | ⟨-, hf⟩ | ⟨-, hf⟩ | ⟨-, hf⟩ | ⟨-, hf, -⟩
  · exact (fsmOk_congr hf).trans h
  all_goals rw [State.fsmOk, hf]; rfl

/-- A completion keeps it: the body's frame, and no command pending any more. -/
theorem State.Inv.completion {s u : State} {i : Instr} (h : s.Inv) (hu : bodyOf i s = .next u) :
    u.endCommand.Inv := by
  have hf := body_frame hu
  exact ⟨(memOk_congr hf.chunk hf.mem).trans h.mem, (writtenOk_congr hf.chunk hf.mem hf.written).trans h.written,
    (errOk_congr hf.err hf.errCode).trans h.err, (body_next hu).fsmOk h.fsm,
    pendingOk_of_none (endCommand_pending u), (varsOk_congr hf.vars).trans h.vars⟩

/-- Reset keeps it: the buffer's contents stay and no word is flagged (R270). -/
theorem State.Inv.resetCore {s : State} (h : s.Inv) : s.resetCore.Inv :=
  ⟨h.mem, rfl, rfl, rfl, rfl, h.vars⟩

/-! ### The obligations -/

/-- Settles O48: by whose turn the step is; each update keeps the invariant. -/
theorem stepKeepsTheInvariant : Obligations.StepKeepsTheInvariant := by
  intro s t hinv h
  rcases step_next h with ⟨-, hh⟩ | ⟨-, -, rfl⟩ | ⟨-, i, u, -, hu, rfl⟩ | ⟨-, rfl⟩
  · exact hinv.popTurn.hostStep hh
  · exact hinv.popTurn
  · exact hinv.popTurn.completion hu
  · exact hinv.popTurn.resetCore

/-- Settles O41: the words consumed can be read together exactly when each is flagged as written. -/
theorem completionFaultsExactlyOnUnwritten : Obligations.CompletionFaultsExactlyOnUnwritten := by
  intro s i hinv hp
  obtain ⟨-, -, hl⟩ := hinv.pending_some hp
  have hiff := isSome_bufWords_iff hinv.written (consumedWords i s)
  refine ⟨fun ⟨k, hk, hun⟩ => ?_, fun hall => ?_⟩
  · have hw : s.bufWords 0 (consumedWords i s) = none :=
      Option.not_isSome_iff_eq_none.mp fun hsome => Bool.false_ne_true (hun.symm.trans (hiff.mp hsome k hk))
    rw [exec_busy i (busy_of_pending hp), complete_of_fault (bodyOf_of_unreadable hl hw)]
  · obtain ⟨u, hu⟩ := exists_bodyEffect hl (hiff.mpr hall)
    exact ⟨_, hu.exec_pending hp, endCommand_busy u⟩

/-- Settles O43: an issue raises an error or makes the command pending; a completion is framed by its body. -/
theorem frameOfIssueAndCompletion : Obligations.FrameOfIssueAndCompletion := by
  intro i s t h
  rcases exec_next h with ⟨hb, hissue⟩ | ⟨hb, u, hu, rfl⟩
  · refine ⟨fun _ => ?_, fun hb' => absurd hb' (hb ▸ Bool.false_ne_true)⟩
    rcases hissue with rfl | ⟨c, -, rfl⟩ | ⟨-, -, rfl⟩
    · exact ⟨rfl, rfl, rfl, fun _ _ => rfl, .inl rfl⟩
    · simp
    · cases hm : startsMessage i with
      | false =>
        rw [acceptEffect_of_not_starts hm]
        exact ⟨rfl, rfl, rfl, fun _ _ => rfl, .inl rfl⟩
      | true =>
        rw [acceptEffect_of_starts hm]
        have hstarts := (startsMessage_iff i).mp hm
        exact ⟨rfl, rfl, rfl, fun hinit hone => absurd hstarts (not_or.mpr ⟨hinit, hone⟩), .inr rfl⟩
  · refine ⟨fun hb' => absurd hb' (hb ▸ Bool.noConfusion), fun _ => ?_⟩
    have hf := body_frame hu
    have he := body_next hu
    rw [endCommand_err, endCommand_errCode, endCommand_ovf, endCommand_count, endCommand_fsm]
    refine ⟨hf.err, hf.errCode, endCommand_busy u, hf.ovf, he.ovf_kept, fun hi => ?_, he.fsm_kept⟩
    rcases hi with rfl | rfl
    · rw [he.eq_of_nop]
    · exact he.count_of_block

/-- Settles O52: a host turn leaves the three alone, and no command that adds bytes can be pending. -/
theorem doneDigestIsImmutable : Obligations.DoneDigestIsImmutable := by
  intro s t hinv hd h
  rcases step_next h with ⟨-, hh⟩ | ⟨-, -, rfl⟩ | ⟨hT, i, u, hp, -, rfl⟩ | ⟨hT, -⟩
  · have hturn := host_turn hh
    obtain ⟨hdigest, hcount⟩ := hturn.digest_count
    exact .inl ⟨hdigest, hcount, hturn.fsm.trans hd⟩
  · exact .inl ⟨rfl, rfl, hd⟩
  · refine .inr (.inr ⟨hT, ?_⟩)
    rcases hinv.pending_of_done hd hp with rfl | rfl
    · exact .inl hp
    · exact .inr hp
  · exact .inr (.inl hT)

/-- Settles O53: only a reset and a completion move `fsm`, and a command that starts no message was pending in
STREAMING. -/
theorem sequencerTransitions : Obligations.SequencerTransitions := by
  intro s t hinv h hne
  rcases step_next h with ⟨-, hh⟩ | ⟨-, -, rfl⟩ | ⟨hT, i, u, hp, hu, rfl⟩ | ⟨hT, rfl⟩
  · exact absurd (host_turn hh).fsm hne
  · exact absurd rfl hne
  · obtain ⟨-, hs, -⟩ := hinv.pending_some hp
    rw [endCommand_fsm] at hne ⊢
    rw [endCommand_count]
    rcases (body_next hu).fsm_cases with hf | ⟨rfl, hf⟩ | ⟨rfl, hf⟩ | ⟨rfl, hf⟩ | ⟨rfl, hf, hend⟩
    · exact absurd hf hne
    · exact .inr (.inl ⟨hT, hp, hf⟩)
    · exact .inr (.inr (.inl ⟨hT, hp, hf⟩))
    · exact .inr (.inr (.inr (.inl ⟨hT, hp, hs.resolve_left Bool.false_ne_true, hf⟩)))
    · have hshort (hL : s.lenBytes ≠ s.chunkBytes) : s.lenBytes < s.chunkBytes :=
        lt_of_le_of_ne (hinv.chunk_fits hp) hL
      exact .inr (.inr (.inr (.inr ⟨hT, hp, hs.resolve_left Bool.false_ne_true, hf, hend.imp_left hshort⟩)))
  · exact .inl ⟨hT, rfl⟩

end Sys2Proof.Machine
end

section
/-! PROOFS. The digest of a message (spec/42_sequencer.md R183 to R195): whole blocks taken in one after another and a
padded fragment at the end give the one-pass digest, however the message is cut. -/

namespace Sys2Proof.Machine

/-! ### Whole blocks before the padded fragment -/

/-- Whole blocks in front move the padding, and count in its length field as bytes before the fragment (R151, R154). -/
theorem paddedBytes_append {msg : List Byte} (bytes : List Byte) (prior : DWord) (h : msg.length % 64 = 0) :
    paddedBytes (msg ++ bytes) prior = msg ++ paddedBytes bytes (prior + BitVec.ofNat 64 msg.length) := by
  have hlen : (msg ++ bytes).length = msg.length + bytes.length := List.length_append
  obtain ⟨-, -, hwords⟩ := paddedWords_room (msg.length + bytes.length)
  obtain ⟨-, -, hwords'⟩ := paddedWords_room bytes.length
  have hzeros : 4 * paddedWords (msg.length + bytes.length) - 8 - (msg.length + bytes.length + 1) =
      4 * paddedWords bytes.length - 8 - (bytes.length + 1) := by omega
  have hbits : bitLength prior (msg.length + bytes.length) =
      bitLength (prior + BitVec.ofNat 64 msg.length) bytes.length := by
    apply BitVec.eq_of_toNat_eq
    rw [bitLength_toNat, bitLength_toNat, BitVec.toNat_add, BitVec.toNat_ofNat]
    omega
  simp only [paddedBytes, hlen, hzeros, hbits, List.append_assoc]

/-- The one-pass packing of a message is its whole blocks, packed, before its padded last fragment (R155, R157). -/
theorem packWhole_append {msg : List Byte} (bytes : List Byte) (h : msg.length % 64 = 0) :
    packWhole (msg ++ bytes) = wordsOfBytes msg ++ packFinal bytes (BitVec.ofNat 64 msg.length) := by
  rw [packWhole, packFinal, paddedBytes_append bytes _ h, wordsOfBytes_append _ (by omega), BitVec.zero_add, packFinal]

/-! ### The message taken in -/

theorem State.Streamed.congr {s t : State} {msg : List Byte} (h : s.Streamed msg) (hf : t.fsm = s.fsm)
    (hd : t.digest = s.digest) (hc : t.count = s.count) : t.Streamed msg :=
  ⟨hf.trans h.streaming, h.blocks, hd.trans h.digest, hc.trans h.count⟩

theorem State.Streamed.popTurn {s : State} {msg : List Byte} (h : s.Streamed msg) : s.popTurn.Streamed msg :=
  h.congr rfl rfl rfl

theorem State.Streamed.endCommand {s : State} {msg : List Byte} (h : s.Streamed msg) : s.endCommand.Streamed msg :=
  h.congr (endCommand_fsm s) (endCommand_digest s) (endCommand_count s)

theorem State.Finished.endCommand {s : State} {msg : List Byte} (h : s.Finished msg) : s.endCommand.Finished msg :=
  ⟨(endCommand_fsm s).trans h.done, (endCommand_digest s).trans h.digest, (endCommand_count s).trans h.count⟩

/-- INIT starts the empty message (R186). -/
theorem streamed_nil (s : State) : (s.loadIv.setFsm .streaming).Streamed [] :=
  ⟨setFsm_fsm _ _, rfl, setFsm_digest _ _, setFsm_count _ _⟩

/-- The chaining value of whole blocks, carried on over more of them, is that of all of them (R127, R183). -/
theorem State.Streamed.absorbed {s : State} {msg bytes : List Byte} {L : Nat} (h : s.Streamed msg)
    (hlen : bytes.length = L) (h64 : L % 64 = 0) :
    ((s.setDigest (compress s.digest (wordsOfBytes bytes))).addBytes L).Streamed (msg ++ bytes) := by
  obtain ⟨hfsm, hblocks, hdigest, hcount⟩ := h
  subst hlen
  refine ⟨?_, ?_, ?_, ?_⟩
  · rw [addBytes_fsm, setDigest_fsm, hfsm]
  · rw [List.length_append]
    omega
  · rw [addBytes_digest, setDigest_digest, hdigest, wordsOfBytes_append _ (by omega),
      compress_append _ _ (by rw [wordsOfBytes_length]; omega)]
  · rw [addBytes_count, setDigest_count, hcount, List.length_append, BitVec.ofNat_add]

/-- The padded fragment, compressed from the chaining value of whole blocks, gives the digest of the whole message
(R155, R184, R194). -/
theorem State.Streamed.finalised {s : State} {msg bytes : List Byte} {L : Nat} (h : s.Streamed msg)
    (hlen : bytes.length = L) : (finalizeBytes bytes L s).Finished (msg ++ bytes) := by
  obtain ⟨-, hblocks, hdigest, hcount⟩ := h
  subst hlen
  refine ⟨finalizeBytes_fsm _ _ _, ?_, ?_⟩
  · rw [finalizeBytes_digest, hdigest, hcount, md5, packWhole_append bytes hblocks,
      compress_append _ _ (by rw [wordsOfBytes_length]; omega)]
  · rw [finalizeBytes_count, hcount, List.length_append, BitVec.ofNat_add]

/-- A chunk absorbed and then the empty fragment: the message ends with the chunk (R187). -/
theorem State.Streamed.reached {s : State} {msg bytes : List Byte} {L : Nat} (h : s.Streamed msg)
    (hlen : bytes.length = L) (h64 : L % 64 = 0) :
    (finalizeBytes [] 0 ((s.setDigest (compress s.digest (wordsOfBytes bytes))).addBytes L)).Finished
      (msg ++ bytes) := by
  simpa using (h.absorbed hlen h64).finalised (bytes := []) rfl

/-- ONESHOT is the fragment of the empty message (R190). -/
theorem finished_of_loadIv (s : State) {bytes : List Byte} {L : Nat} (hlen : bytes.length = L) :
    (finalizeBytes bytes L s.loadIv).Finished bytes := by
  subst hlen
  refine ⟨finalizeBytes_fsm _ _ _, ?_, ?_⟩
  · rw [finalizeBytes_digest, loadIv_digest, loadIv_count, md5, packWhole]
  · rw [finalizeBytes_count, loadIv_count, BitVec.zero_add]

theorem popTurn_bufBytes (s : State) (L : Nat) : s.popTurn.bufBytes L = s.bufBytes L :=
  bufBytes_congr (s := s) (t := s.popTurn) rfl rfl L

theorem popTurn_bufBlock (s : State) : s.popTurn.bufBlock = s.bufBlock :=
  bufWords_congr fun _ _ => bufWord_congr (s := s) (t := s.popTurn) rfl rfl _

/-! ### The obligations -/

/-- Settles O58: the finalised and the reached case of `BodyEffect`, each of which ends the streamed message. -/
theorem endingAMessageGivesItsDigest : Obligations.EndingAMessageGivesItsDigest := by
  intro s msg bytes i hm hp hb hi
  have hlen := bufBytes_length hb
  rcases hi with rfl | ⟨rfl, hL⟩ | ⟨rfl, hL, huse, htotal⟩
  · exact ⟨_, (BodyEffect.ofFragment (.inl rfl) hb).exec_pending hp, (hm.finalised hlen).endCommand⟩
  · exact ⟨_, (BodyEffect.ofFragment (.inr ⟨rfl, hL⟩) hb).exec_pending hp, (hm.finalised hlen).endCommand⟩
  · obtain ⟨-, -, h64⟩ := chunkBytes_le s
    have hreach : s.count + BitVec.ofNat 64 s.lenBytes = s.total := by
      rw [hm.count, htotal, BitVec.ofNat_add, State.lenBytes]
    exact ⟨_, (BodyEffect.lastChunk hL hb huse hreach).exec_pending hp, (hm.reached hlen (hL ▸ h64)).endCommand⟩

/-- Settles O57: the first two clauses are cases of `BodyEffect`; the third goes through everything a step can do, and
in a completion through everything a body can do. -/
theorem streamingExtendsTheMessage : Obligations.StreamingExtendsTheMessage := by
  refine ⟨fun s hp => ?_, fun s msg bytes i hm hp hb hi => ?_, fun s t msg hinv hm h => ?_⟩
  · exact ⟨_, BodyEffect.init.exec_pending hp, (streamed_nil s).endCommand⟩
  · have hlen := bufBytes_length hb
    rcases hi with ⟨rfl, h64⟩ | ⟨rfl, hL, ht⟩
    · exact ⟨_, (BodyEffect.absorbed (.inl rfl) hb h64 nofun).exec_pending hp, (hm.absorbed hlen h64).endCommand⟩
    · obtain ⟨-, -, h64⟩ := chunkBytes_le s
      exact ⟨_, (BodyEffect.fullChunk hL hb ht).exec_pending hp, (hm.absorbed hlen (hL ▸ h64)).endCommand⟩
  rcases step_next h with ⟨hT, hh⟩ | ⟨hT, hp, rfl⟩ | ⟨hT, i, u, hp, hu, rfl⟩ | ⟨hT, rfl⟩
  · have hturn := host_turn hh
    obtain ⟨hd, hc⟩ := hturn.digest_count
    exact .inl ⟨.inl hT, hm.congr hturn.fsm hd hc⟩
  · exact .inl ⟨.inr ⟨hT, hp⟩, hm.popTurn⟩
  · have hpop := hm.popTurn
    cases body_next hu with
    | nop => exact absurd rfl (hinv.pending_some hp).1
    | init => exact .inr (.inr (.inr (.inl ⟨hT, hp, (streamed_nil _).endCommand⟩)))
    | absorbed hi hb h64 ht =>
      have hlen := bufBytes_length hb
      refine .inr (.inl ⟨hT, _, (popTurn_bufBytes s _).symm.trans hb, ?_, (hpop.absorbed hlen h64).endCommand⟩)
      rcases hi with rfl | ⟨rfl, hL⟩
      · exact .inl hp
      · exact .inr ⟨hp, hlen.trans hL, (not_reached_iff s _).mp (ht rfl)⟩
    | reached hL hb h64 huse ht =>
      have hlen := bufBytes_length hb
      refine .inr (.inr (.inl ⟨hT, _, (popTurn_bufBytes s _).symm.trans hb, .inr (.inr ?_),
        (hpop.reached hlen h64).endCommand⟩))
      refine ⟨hp, hlen.trans hL, huse, ?_⟩
      rw [endCommand_count, finalizeBytes_count, addBytes_count, setDigest_count, BitVec.add_zero]
      exact ht
    | finalised hi hb =>
      have hlen := bufBytes_length hb
      refine .inr (.inr (.inl ⟨hT, _, (popTurn_bufBytes s _).symm.trans hb, ?_, (hpop.finalised hlen).endCommand⟩))
      rcases hi with rfl | ⟨rfl, hL⟩
      · exact .inl hp
      · exact .inr (.inl ⟨hp, hlen ▸ lt_of_le_of_ne (hinv.chunk_fits hp) hL⟩)
    | oneshot hb =>
      have hlen := bufBytes_length hb
      exact .inr (.inr (.inr (.inr (.inl ⟨hT, hp, _, (popTurn_bufBytes s _).symm.trans hb,
        (finished_of_loadIv _ hlen).endCommand⟩))))
    | block hX =>
      rw [popTurn_bufBlock] at hX
      obtain ⟨hlen, hget⟩ := bufWords_eq_some hX
      refine .inr (.inr (.inr (.inr (.inr (.inl ⟨hT, hp, _, hlen, fun k hk => ?_, ?_, ?_, ?_⟩)))))
      · rw [hget k hk, Nat.zero_add]
      · rw [endCommand_digest, setDigest_digest, popTurn_digest]
      · rw [endCommand_count, setDigest_count, popTurn_count]
      · rw [endCommand_fsm, setDigest_fsm, popTurn_fsm, hm.streaming]
  · exact .inr (.inr (.inr (.inr (.inr (.inr ⟨hT, rfl, rfl, rfl⟩)))))

end Sys2Proof.Machine
end

section
/-! PROOFS. The steps of the two agents (spec/42_sequencer.md R181, R182): what a host's and the core's turn run, and
that a pending command waits unharmed for the core's turn. -/

namespace Sys2Proof.Machine

/-! ### Whose turn it is -/

theorem turn_of_cons {s : State} {x : Turn} {r : List Turn} (h : s.turns = x :: r) : s.turn = x := by
  rw [State.turn, h]

theorem turn_of_nil {s : State} (h : s.turns = []) : s.turn = if s.busy then .core else .host := by
  rw [State.turn, h]

theorem step_core_pending {s : State} {i : Instr} (hT : s.turn = .core) (hp : s.pending = some i) :
    step s = exec i s.popTurn := by
  rw [step_core hT, coreStep, popTurn_pending, hp]

theorem step_core_idle {s : State} (hT : s.turn = .core) (hp : s.pending = none) : step s = .next s.popTurn := by
  rw [step_core hT, coreStep, popTurn_pending, hp]

/-! ### The host's statement -/

theorem hostStep_none {s : State} (h : s.hostStmt = none) : hostStep s = .next s := by
  rw [hostStep, h]

theorem hostStep_wr {s : State} {off n : Nat} {v : Word} (h : s.hostStmt = some (.wr off n v)) :
    hostStep s = hostWrite off n v s := by
  rw [hostStep, h]

theorem hostStep_rd {s : State} {off n : Nat} {dst : Option Nat} (h : s.hostStmt = some (.rd off n dst)) :
    hostStep s = hostRead off n dst s := by
  rw [hostStep, h]

/-- The write of a command's word to CMD, while BUSY = 0, is the issue of that command (R64, R181). -/
theorem hostWrite_cmd {s : State} {v : Word} {i : Instr} (hb : s.busy = false) (hd : decode v = .ok i) :
    hostWrite 0x0000 4 v s = exec i s.hostNext := by
  rw [hostWrite_low rfl (by decide), show regAt 0 0x0000 = .cmd from rfl, writeReg, hostNext_busy, hb, Bool.and_false,
    if_neg Bool.false_ne_true, issueWord, hd]

theorem step_wr_cmd {s : State} {v : Word} {i : Instr} (hT : s.turn = .host) (hb : s.busy = false)
    (hs : s.hostStmt = some (.wr 0x0000 4 v)) (hd : decode v = .ok i) : step s = exec i s.popTurn.hostNext := by
  rw [step_host hT, hostStep_wr (s := s.popTurn) hs]
  exact hostWrite_cmd (s := s.popTurn) hb hd

theorem withFetchWord_eq (s : State) (v : Word) : s.withFetchWord 32 v.toNat = s.placeCommand v := by
  rw [State.withFetchWord, Nat.mod_eq_of_lt v.isLt, BitVec.ofNat_toNat, BitVec.setWidth_eq]

/-- A placed command is the host's next statement, on a host turn of an idle core. -/
theorem step_placeCommand {v : Word} {i : Instr} (s : State) (hd : decode v = .ok i) :
    step (s.placeCommand v) = exec i (s.placeCommand v).popTurn.hostNext :=
  step_wr_cmd rfl rfl (setStmt_get _ _ _) hd

/-! ### A pending command under host turns -/

/-- `t` has the pending command of `s` with its operands, and what its completion starts from. -/
structure Waiting (s t : State) : Prop extends OperandsKept s t where
  pending : t.pending = s.pending
  digest : t.digest = s.digest
  count : t.count = s.count
  fsm : t.fsm = s.fsm
  ovf : t.ovf = s.ovf

theorem Waiting.refl (s : State) : Waiting s s := ⟨⟨rfl, rfl, rfl, rfl, rfl, rfl⟩, rfl, rfl, rfl, rfl, rfl⟩

theorem Waiting.trans {s t u : State} (h : Waiting s t) (k : Waiting t u) : Waiting s u :=
  ⟨⟨k.len.trans h.len, k.useTotal.trans h.useTotal, k.total.trans h.total, k.mem.trans h.mem,
    k.written.trans h.written, k.chunk.trans h.chunk⟩, k.pending.trans h.pending, k.digest.trans h.digest,
    k.count.trans h.count, k.fsm.trans h.fsm, k.ovf.trans h.ovf⟩

/-- No host turn interferes with a pending command: it can only raise BUSY_WRITE (R64, R72). -/
theorem HostTurn.waiting {s t : State} (h : HostTurn s t) (hb : s.busy = true) : Waiting s t := by
  obtain ⟨hdigest, hcount⟩ := h.digest_count
  have hpending : t.pending = s.pending := h.pending.resolve_right fun ⟨hidle, _⟩ => by simp [hb] at hidle
  have hovf : t.ovf = s.ovf := by
    rcases h.flags with hk | hr
    · exact hk.ovf
    · exact absurd hr.idle (by simp [hb])
  exact ⟨h.operandsKept hb, hpending, hdigest, hcount, h.fsm, hovf⟩

/-- A run of one more step is the run and then that step. -/
theorem core_run_succ_of_run (M : Host.Core) {n : Nat} {s u : M.State} (h : M.run n s = .next u) :
    M.run (n + 1) s = M.step u := by
  induction n generalizing s with
  | zero =>
    injection h with h
    subst h
    rw [Host.Core.run]
    cases M.step s <;> rfl
  | succ n ih =>
    obtain ⟨w, hw, hrun⟩ := (core_run_succ M n s u).mp h
    rw [Host.Core.run, hw]
    exact ih hrun

/-- Through `n` host turns a pending command waits, and the schedule is then what stood behind them. -/
theorem waiting_of_host_turns {s u : State} {n : Nat} {rest : List Turn} (hb : s.busy = true)
    (hturns : s.turns = List.replicate n .host ++ rest) (hrun : Sys2Proof.core.run n s = .next u) :
    Waiting s u ∧ u.turns = rest := by
  induction n generalizing s with
  | zero =>
    injection hrun with hu
    subst hu
    exact ⟨.refl s, hturns⟩
  | succ n ih =>
    rw [List.replicate_succ, List.cons_append] at hturns
    obtain ⟨w, hw, hrun⟩ := (run_succ n s u).mp hrun
    rw [step_host (turn_of_cons hturns)] at hw
    have hwait := (host_turn hw).waiting hb
    have hwturns : w.turns = List.replicate n .host ++ rest := by
      rw [hostStep_turns hw, popTurn_turns, hturns, List.tail_cons]
    obtain ⟨hrest, hend⟩ := ih ((busy_congr hwait.pending).trans hb) hwturns hrun
    exact ⟨hwait.trans hrest, hend⟩

/-! ### The obligations -/

/-- Settles O44: by whose turn the step is, and by the host's statement. -/
theorem stepRunsTheDecodedCommand : Obligations.StepRunsTheDecodedCommand := by
  refine ⟨fun s v i => ⟨step_wr_cmd, step_core_pending, fun hd => ?_, rfl, rfl⟩, fun s hT => ⟨fun st _ => step_host hT,
    fun off n v hs => ?_, fun off n dst hs => ?_, fun hs => ?_⟩, fun s => ⟨step_core_idle, rfl, fun x r => turn_of_cons,
    turn_of_nil⟩⟩
  · rw [withFetchWord_eq]
    exact step_placeCommand s hd
  · exact (step_host hT).trans (hostStep_wr (s := s.popTurn) hs)
  · exact (step_host hT).trans (hostStep_rd (s := s.popTurn) hs)
  · exact (step_host hT).trans (hostStep_none (s := s.popTurn) hs)

/-- Settles O56: the command waits through the host turns, and the turn after them is the core's. -/
theorem acceptedCommandCompletes : Obligations.AcceptedCommandCompletes := by
  intro s u i n rest hp hturns hrest hrun
  have hb := busy_of_pending hp
  obtain ⟨hwait, hut⟩ := waiting_of_host_turns hb hturns hrun
  have hup : u.pending = some i := hwait.pending.trans hp
  have hub : u.busy = true := busy_of_pending hup
  have hcore : u.turn = .core := by
    subst hut
    rcases hrest with hnil | hhead
    · rw [turn_of_nil hnil, hub, if_pos rfl]
    · exact turn_of_cons (List.eq_cons_of_mem_head? hhead)
  refine ⟨⟨hup, hwait.len, hwait.useTotal, hwait.total, hwait.mem, hwait.written, hwait.digest, hwait.count,
    hwait.fsm, hwait.ovf⟩, ?_, fun t ht => ?_⟩
  · exact (core_run_succ_of_run Sys2Proof.core hrun).trans (step_core_pending hcore hup)
  · rw [exec_busy (s := u.popTurn) i hub] at ht
    obtain ⟨v, -, rfl⟩ := complete_next ht
    exact endCommand_busy v

end Sys2Proof.Machine
end

section
/-! PROOFS. Errors and acceptance (spec/60_exceptions.md): the record of a first error, which check rejects which command
with which code, and the port's own two errors, ILLEGAL_CMD and BUSY_WRITE. -/

namespace Sys2Proof.Machine

/-! ### Raising an error -/

theorem raiseError_of_err_clear {s : State} (h : s.err = false) (code : ErrCode) :
    s.raiseError code = { s with err := true, errCode := code } :=
  if_pos h

theorem raiseError_of_err_set {s : State} (h : s.err = true) (code : ErrCode) : s.raiseError code = s :=
  if_neg (h ▸ Bool.true_eq_false.mp)

/-! ### The verdict of the acceptance checks -/

theorem lenVerdict_of_long {i : Instr} {s : State} (hi : readsLen i = true) (h : s.chunkBytes < s.lenBytes) :
    lenVerdict i s = .rejected .badLen :=
  if_pos (by rw [hi, decide_eq_true h, Bool.true_and])

theorem lenVerdict_absorb_of_partial_block {s : State} (hfit : s.lenBytes ≤ s.chunkBytes) (h : s.lenBytes % 64 ≠ 0) :
    lenVerdict .absorb s = .rejected .invalidChunkLength := by
  rw [lenVerdict, decide_eq_false (Nat.not_lt.mpr hfit), Bool.and_false, if_neg Bool.false_ne_true, if_pos ⟨rfl, h⟩]

/-- The checks of LEN reject with two codes, the second for ABSORB alone (R244, R246). -/
theorem lenVerdict_rejected {i : Instr} {s : State} {code : ErrCode} (h : lenVerdict i s = .rejected code) :
    code = .badLen ∨ code = .invalidChunkLength ∧ i = .absorb := by
  rw [lenVerdict] at h
  split at h
  · injection h with h
    exact .inl h.symm
  · split at h
    · next hi =>
      injection h with h
      exact .inr ⟨h.symm, hi.1⟩
    · cases h

/-- A command is NOP, starts a message, or belongs to one that has been started. -/
theorem command_kind (i : Instr) :
    i = .nop ∨ startsMessage i = true ∨ i = .chunk ∨ i = .absorb ∨ i = .final ∨ i = .block := by
  cases i <;> decide

/-- INIT and ONESHOT go straight to the checks of LEN (R242). -/
theorem acceptance_eq_lenVerdict_of_starts {i : Instr} (h : startsMessage i = true) (s : State) :
    acceptance i s = lenVerdict i s := by
  have hi : i ≠ .nop := by rintro rfl; cases h
  rw [acceptance, if_neg hi, if_pos h]

section
variable {i : Instr} (hi : i = .chunk ∨ i = .absorb ∨ i = .final ∨ i = .block) {s : State}
include hi

/-- CHUNK, ABSORB, FINAL and BLOCK pass the checks of ERR and `fsm` before those of LEN (R242). -/
theorem acceptance_of_message_command : acceptance i s =
    if s.err then .dropped else if s.fsm ≠ .streaming then .rejected .badState else lenVerdict i s := by
  rcases hi with rfl | rfl | rfl | rfl <;> rfl

theorem acceptance_dropped (he : s.err = true) : acceptance i s = .dropped := by
  rw [acceptance_of_message_command hi, if_pos he]

theorem acceptance_badState (he : s.err = false) (hf : s.fsm ≠ .streaming) :
    acceptance i s = .rejected .badState := by
  rw [acceptance_of_message_command hi, he, if_neg Bool.false_ne_true, if_pos hf]

theorem acceptance_eq_lenVerdict_of_streaming (he : s.err = false) (hf : s.fsm = .streaming) :
    acceptance i s = lenVerdict i s := by
  rw [acceptance_of_message_command hi, he, if_neg Bool.false_ne_true, if_neg (not_not.mpr hf)]

end

/-- Each code of a rejection, and the commands it can be recorded for (R240, R242). -/
theorem acceptance_rejected {i : Instr} {s : State} {code : ErrCode} (h : acceptance i s = .rejected code) :
    code = .badState ∧ (i = .chunk ∨ i = .absorb ∨ i = .final ∨ i = .block) ∨ code = .badLen ∨
      code = .invalidChunkLength ∧ i = .absorb := by
  rcases command_kind i with rfl | hi | hi
  · cases h
  · exact .inr (lenVerdict_rejected (acceptance_eq_lenVerdict_of_starts hi s ▸ h))
  · rw [acceptance_of_message_command hi] at h
    split at h
    · cases h
    · split at h
      · injection h with h
        exact .inl ⟨h.symm, hi⟩
      · exact .inr (lenVerdict_rejected h)

/-! ### The issue of a command -/

theorem exec_of_rejected {i : Instr} {s : State} {code : ErrCode} (hb : s.busy = false)
    (h : acceptance i s = .rejected code) : exec i s = .next (s.raiseError code) := by
  rw [exec_idle i hb, issue, h]

theorem exec_of_dropped {i : Instr} {s : State} (hb : s.busy = false) (h : acceptance i s = .dropped) :
    exec i s = .next s := by
  rw [exec_idle i hb, issue, h]

/-- The code after an issue is the one before, none, or the one that the acceptance checks rejected the command with. -/
theorem exec_idle_errCode {i : Instr} {s t : State} (hb : s.busy = false) (h : exec i s = .next t) :
    t.errCode = s.errCode ∨ t.errCode = .none ∨ acceptance i s = .rejected t.errCode := by
  rcases exec_next h with ⟨-, rfl | ⟨code, hc, rfl⟩ | ⟨-, -, rfl⟩⟩ | ⟨hb', -⟩
  · exact .inl rfl
  · rw [raiseError_errCode]
    split
    · exact .inr (.inr hc)
    · exact .inl rfl
  · rw [acceptEffect_eq]
    cases startsMessage i with
    | false => exact .inl rfl
    | true => exact .inr (.inl rfl)
  · exact absurd hb' (hb ▸ Bool.false_ne_true)

/-- A code that this command is never rejected with was there before its issue. -/
theorem errCode_of_exec_idle {i : Instr} {s t : State} {code : ErrCode} (hb : s.busy = false) (hc : code ≠ .none)
    (hne : acceptance i s ≠ .rejected code) (h : exec i s = .next t) (ht : t.errCode = code) : s.errCode = code := by
  subst ht
  rcases exec_idle_errCode hb h with hs | hnone | hr
  · exact hs.symm
  · exact absurd hnone hc
  · exact absurd hr hne

/-! ### The errors of the port -/

/-- No command has a word with RSVD not 0 or OP above 6 (R93). -/
theorem decode_illegal {v : Word} (h : v.toNat / 16 ≠ 0 ∨ 7 ≤ v.toNat % 16) : ∃ e, decode v = .error e := by
  cases hd : decode v with
  | error e => exact ⟨e, rfl⟩
  | ok i =>
    obtain ⟨hr, ho⟩ := fields_of_decode hd
    have hop : (opcode i).toNat < 7 := by cases i <;> decide
    rw [← ho, toNat_opField] at hop
    rw [← toNat_rsvdField, hr] at h
    exact absurd h (not_or.mpr ⟨not_not.mpr rfl, Nat.not_le.mpr hop⟩)

theorem hostWrite_illegal {s : State} {v : Word} {e : DecodeError} (hb : s.busy = false) (hd : decode v = .error e) :
    hostWrite 0x0000 4 v s = .next (s.hostNext.raiseError .illegalCmd) := by
  rw [hostWrite_low rfl (by decide), show regAt 0 0x0000 = .cmd from rfl, writeReg, hostNext_busy, hb, Bool.and_false,
    if_neg Bool.false_ne_true, issueWord, hd]

theorem writeReg_guarded_busy {s : State} {r : Reg} (hr : busyGuarded r = true) (hb : s.busy = true) (v : Word) :
    writeReg v s r = .next (s.raiseError .busyWrite) :=
  if_pos (by rw [hr, hb, Bool.and_self])

/-- The buffer's window comes first in the map (R61). -/
theorem regAt_of_window {cb off : Nat} (h : 0x8000 ≤ off ∧ off < 0x8000 + cb) :
    regAt cb off = .buf ((off - 0x8000) / 4) :=
  if_pos h

/-- The map has a guarded register at every offset of R248. -/
theorem busyGuarded_regAt {cb off : Nat} (h : off = 0x0000 ∨ off = 0x0008 ∨ off = 0x000C ∨ off = 0x0010 ∨
    off = 0x0014 ∨ 0x8000 ≤ off ∧ off < 0x8000 + cb) : busyGuarded (regAt cb off) = true := by
  rcases h with rfl | rfl | rfl | rfl | rfl | hbuf
  case inr.inr.inr.inr.inr => rw [regAt_of_window hbuf]; rfl
  all_goals rw [regAt_low cb (by decide)]; rfl

/-! ### The obligations -/

/-- Settles O28: the check of `fsm` comes before those of LEN, and no other command comes to it. -/
theorem badStateOutsideStreaming : Obligations.BadStateOutsideStreaming := by
  intro s i hb
  refine ⟨fun hi he hf => ?_, fun hi t => errCode_of_exec_idle hb nofun fun hr => ?_⟩
  · rw [exec_of_rejected hb (acceptance_badState hi he hf), raiseError_of_err_clear he]
  · rcases acceptance_rejected hr with ⟨-, hm⟩ | hc | ⟨hc, -⟩
    · rcases hi with rfl | rfl | rfl <;> simp at hm
    · cases hc
    · cases hc

/-- Settles O29: the earlier checks passed, the verdict is that of the checks of LEN. -/
theorem lengthErrorsAtAcceptance : Obligations.LengthErrorsAtAcceptance := by
  refine ⟨fun s i hb hL => ⟨fun hi he hf => ?_, ?_⟩, fun s hb he => ⟨fun hf hfit h64 => ?_, fun i t hi => ?_⟩⟩
  · have hlen : readsLen i = true := by rcases hi with rfl | rfl | rfl <;> rfl
    have hm : i = .chunk ∨ i = .absorb ∨ i = .final ∨ i = .block := hi.imp_right (.imp_right .inl)
    have ha := (acceptance_eq_lenVerdict_of_streaming hm he hf).trans (lenVerdict_of_long hlen hL)
    rw [exec_of_rejected hb ha, raiseError_of_err_clear he]
  · rintro rfl
    exact exec_of_rejected hb ((acceptance_eq_lenVerdict_of_starts rfl s).trans (lenVerdict_of_long rfl hL))
  · have ha := (acceptance_eq_lenVerdict_of_streaming (.inr (.inl rfl)) he hf).trans
      (lenVerdict_absorb_of_partial_block hfit h64)
    rw [exec_of_rejected hb ha, raiseError_of_err_clear he]
  · refine errCode_of_exec_idle hb nofun fun hr => ?_
    rcases acceptance_rejected hr with ⟨hc, -⟩ | hc | ⟨-, hm⟩
    · cases hc
    · cases hc
    · exact hi hm

/-- Settles O4: an illegal word is not decoded, and the port's record of that is a raise. -/
theorem illegalWordRaisesIllegalCmd : Obligations.IllegalWordRaisesIllegalCmd := by
  intro s v hb h
  obtain ⟨e, hd⟩ := decode_illegal h
  exact hostWrite_illegal hb hd

/-- Settles O27: the two cases of a raise. -/
theorem raiseRecordsFirstErrorOnly : Obligations.RaiseRecordsFirstErrorOnly := fun _ code =>
  ⟨fun he => raiseError_of_err_clear he code, fun he => raiseError_of_err_set he code⟩

/-- Settles O30: the check of ERR comes first, and records nothing. -/
theorem commandsDroppedWhileErr : Obligations.CommandsDroppedWhileErr :=
  fun _ _ hb he hi => exec_of_dropped hb (acceptance_dropped hi he)

/-- Settles O32: BUSY guards the register at each of the offsets. -/
theorem guardedWritesDroppedWhileBusy : Obligations.GuardedWritesDroppedWhileBusy := by
  intro s off v hb h4 hoff
  obtain ⟨hcb, -, -⟩ := chunkBytes_le s
  have hp : portHas off 4 = true := (portHas_iff off 4).mpr ⟨rfl, h4, by omega⟩
  rw [hostWrite_eq_writeReg hp rfl, writeReg_guarded_busy (busyGuarded_regAt hoff) ((hostNext_busy s).trans hb)]
  rfl

end Sys2Proof.Machine
end

section
/-! PROOFS. Reset (spec/70_reset_and_hazards.md R270, R271): what a reset turn leaves, whatever was pending. -/

namespace Sys2Proof.Machine

/-- No BUF word is readable after a reset, though BUF's contents stay (R270). -/
@[simp] theorem resetCore_isWritten (s : State) (k : Nat) : s.resetCore.isWritten k = false := by
  rw [State.isWritten, resetCore_written, List.contains_nil]

/-- Settles O46: a reset turn answers `resetCore` of the state with the turn used up, whatever is pending; the laws of
`resetCore` give the reset values, and those of `popTurn` the elements that stay. -/
theorem resetAbandonsThePendingCommand : Obligations.ResetAbandonsThePendingCommand := by
  intro s hT
  refine ⟨s.popTurn.resetCore, step_reset hT, ?_⟩
  simp

end Sys2Proof.Machine
end
